-- ==== Sys2Proof/Word.lean ====
section
/-!
DEFINITION. The word types of the hardware (`00_scope.md` R5 to R7): every value is unsigned; an 8-bit byte,
a 16-bit word, a 4-bit nibble and the 12-bit address immediate.
-/

namespace Sys2Proof

/-- A memory byte or the contents of a general register (R21, R50). -/
abbrev Byte := BitVec 8

/-- A 16-bit value: an opcode, `I`, `pc`, a stack entry (R24, R25, R27, R80). -/
abbrev Word := BitVec 16

/-- One hex digit of an opcode (R5). -/
abbrev Nibble := BitVec 4

/-- The number of a general register, V0..VF (R21). -/
abbrev RegId := BitVec 4

/-- The index of a logical key, 0x0..0xF (R31). -/
abbrev KeyId := BitVec 4

/-- The immediate NNN (R81). -/
abbrev Addr12 := BitVec 12

end Sys2Proof
end

