-- ==== Sys2Proof/Config.lean ====
section
/-!
DEFINITION. The constants of the hardware (`00_scope.md` R4) and its free values. A free value is an opaque constant:
nothing in Lean can evaluate it, so whatever is proved holds for every value of it.
-/

namespace Sys2Proof

/-- MEM_SIZE: 4096 bytes, addresses 0x000..0xFFF (R4, R50). -/
def Config.memSize : Nat := 4096

/-- PROGRAM_BASE: the load address and the reset value of `pc` (R4, R51). -/
def Config.programBase : Nat := 0x200

/-- ROM_MAX: the largest ROM image, 4096 − 0x200 bytes (R4, R252). -/
def Config.romMax : Nat := 3584

/-- The random byte of the `n`-th draw (R34, R131, R235): any byte, under no law. DESIGN CHOICE log 2. -/
opaque Config.randomByte : Nat → Byte

/-- KEY_PICK (R192): which of the pressed keys `FX0A` stores, at the `n`-th draw. Any number; the machine reduces it
to a member of the set. DESIGN CHOICE log 6. -/
opaque Config.keyPick : Nat → List KeyId → Nat

end Sys2Proof
end

