-- ==== Sys2Proof/Machine/State.lean ====
section
/-!
DEFINITION. The state of the machine as plain data (`10_state.md` R20, R39), the faults (R210), the refusals, and the
state after reset (R37). Every field but `draws` is a piece of state the spec names.
-/

namespace Sys2Proof.Machine

/-- Memory as a list of (address, byte) in canonical form (`Memory.wf`): an address that is not listed reads as its
reset contents (R37, R51). -/
abbrev Memory := List Host.Cell

/-- The 64 × 32 grid of one-bit pixels, row first: `grid[r][c]` (R32). -/
abbrev Grid := Vector (Vector Bool 64) 32

/-- The state of R20. -/
structure State where
  /-- The 4096 bytes of memory (R50). -/
  mem    : Memory
  /-- The general registers V0..VF; VF is also the flag register (R21, R22). -/
  v      : Vector Byte 16
  /-- The index register I (R24). -/
  i      : Word
  /-- The program counter; inside an instruction, that instruction's own address (R25). -/
  pc     : Word
  /-- The 16 return-address entries of the call stack (R27). -/
  stack  : Vector Word 16
  /-- The number of live stack entries, 0..16 (R27). -/
  sp     : Fin 17
  /-- The delay timer DT (R28). -/
  dt     : Byte
  /-- The sound timer ST (R28). -/
  st     : Byte
  /-- Fault record: 1 after any fault (R33, R223). -/
  halted : Bool
  /-- Fault record: the cause code, 0 for none (R33, R210). -/
  cause  : Fin 6
  /-- Fault record: `pc` of the faulting instruction (R33). -/
  fpc    : Word
  /-- Fault record: the opcode, stack pointer, address or key index (R33). -/
  finfo  : Word
  /-- The Display's pixels (R32). -/
  grid   : Grid
  /-- The Display's dirty flag (R32). -/
  dirty  : Bool
  /-- The Keypad's pressed flags (R31). -/
  keys   : Vector Bool 16
  /-- The MODEL'S OWN field, not the spec's: the number of free values drawn so far, which names the next one
  (R34, R192; log 2). -/
  draws  : Nat
  deriving DecidableEq, Repr

/-- The faults of R210, with the information each reports. A fault is an event the spec describes (R220): the step
that raises one ends in a NEXT state whose fault record holds it (`State.raise`), never in `Host.Outcome.fault`
(log 3). -/
inductive Fault where
  /-- Raised by decode for a word that is no instruction (R211). Safe: the spec's own fault. -/
  | unknownOpcode (op : Word)
  /-- Raised by `2NNN` when all 16 entries are in use (R212). Safe: the spec's own fault. -/
  | stackOverflow (sp : Fin 17)
  /-- Raised by `00EE` when no entry is in use (R213). Safe: the spec's own fault. -/
  | stackUnderflow (sp : Fin 17)
  /-- Raised by fetch, `DXYN`, `FX33`, `FX55` and `FX65` for an address ≥ 4096, with the lowest such address (R214).
  Safe: the spec's own fault. -/
  | memoryOutOfRange (addr : Word)
  /-- Raised by `EX9E` and `EXA1` when VX > 15 (R215). Safe: the spec's own fault. -/
  | keyIndexOutOfRange (k : Byte)
  deriving DecidableEq, Repr

/-- Why a step can be refused. -/
inductive Refusal where
  /-- Raised by `exec` for an instruction that has no meaning yet; every instruction of this model has one, so no
  step raises it. Safe: nothing is claimed of such an instruction. -/
  | notModelled (mnemonic : String)
  deriving DecidableEq, Repr

/-- The state after reset, as R37 gives it. `keys` is the host's (R31): all released is DESIGN CHOICE log 4; `draws`
is the model's own (log 2). -/
def State.reset : State where
  mem := []
  v := Vector.replicate 16 0
  i := 0
  pc := 0x200
  stack := Vector.replicate 16 0
  sp := 0
  dt := 0
  st := 0
  halted := false
  cause := 0
  fpc := 0
  finfo := 0
  grid := Vector.replicate 32 (Vector.replicate 64 false)
  dirty := false
  keys := Vector.replicate 16 false
  draws := 0

end Sys2Proof.Machine
end

