-- ==== Sys2Proof/Machine/Ops.lean ====
section
/-!
DEFINITION. The named operations over the state: memory with its reset contents (R37, R38, R50 to R54), the general
registers (R21), `pc` (R25, R26), the call stack (R27), the free values (R34, R192), taking a fault (R220) and the
only way out of one, the `Reset` event (R222, R250).
-/

namespace Sys2Proof.Machine

/-! ## Memory -/

/-- The 80 bytes of the font, glyph 0 first, top row first (R38; the spec's own from general knowledge, log 5). -/
def fontTable : List Byte :=
  [0xF0, 0x90, 0x90, 0x90, 0xF0,  0x20, 0x60, 0x20, 0x20, 0x70,
   0xF0, 0x10, 0xF0, 0x80, 0xF0,  0xF0, 0x10, 0xF0, 0x10, 0xF0] ++
  [0x90, 0x90, 0xF0, 0x10, 0x10,  0xF0, 0x80, 0xF0, 0x10, 0xF0,
   0xF0, 0x80, 0xF0, 0x90, 0xF0,  0xF0, 0x10, 0x20, 0x40, 0x40] ++
  [0xF0, 0x90, 0xF0, 0x90, 0xF0,  0xF0, 0x90, 0xF0, 0x10, 0xF0,
   0xF0, 0x90, 0xF0, 0x90, 0x90,  0xE0, 0x90, 0xE0, 0x90, 0xE0] ++
  [0xF0, 0x80, 0x80, 0x80, 0xF0,  0xE0, 0x90, 0x90, 0x90, 0xE0,
   0xF0, 0x80, 0xF0, 0x80, 0xF0,  0xF0, 0x80, 0xF0, 0x80, 0x80]

/-- What memory holds at an address after reset: the font at 0x000..0x04F, 0x00 everywhere else (R37, R51). It is
also what an address that is not listed reads as. -/
def resetByte (a : Nat) : Byte := fontTable.getD a 0

/-- Read one byte (R54, R60). -/
def Memory.read : Memory → Nat → Byte
  | [], a => resetByte a
  | (k, b) :: rest, a => if k = a then b else Memory.read rest a

/-- The memory without the entries of one address: it then reads as its reset contents. -/
def Memory.clear (m : Memory) (a : Nat) : Memory := m.filter (fun c => c.1 != a)

/-- Put an entry before the first entry of a greater address. -/
def Memory.insert : Memory → Nat → Byte → Memory
  | [], a, b => [(a, b)]
  | (k, c) :: rest, a, b => if a < k then (a, b) :: (k, c) :: rest else (k, c) :: Memory.insert rest a b

/-- Write one byte (R54), keeping the canonical form: an entry equal to the reset contents is not listed. -/
def Memory.write (m : Memory) (a : Nat) (b : Byte) : Memory :=
  if b = resetByte a then m.clear a else (m.clear a).insert a b

/-- The canonical form: addresses strictly rising and below 4096, and no entry equal to the reset contents. -/
abbrev Memory.wf (m : Memory) : Prop :=
  m.Pairwise (fun p q => p.1 < q.1) ∧ ∀ c ∈ m, c.1 < Config.memSize ∧ c.2 ≠ resetByte c.1

/-- The big-endian word at `a` and `a + 1`: the byte at `a` is the high byte (R54, R55). -/
def Memory.readWord (m : Memory) (a : Nat) : Word := m.read a ++ m.read (a + 1)

/-- The `n` bytes from `a` upward (R54, R55: the lowest address first). -/
def Memory.readBlock (m : Memory) (a : Nat) : Nat → List Byte
  | 0 => []
  | n + 1 => m.read a :: Memory.readBlock m (a + 1) n

/-- Write bytes from `a` upward, in ascending order (R67). -/
def Memory.writeBlock (m : Memory) (a : Nat) : List Byte → Memory
  | [] => m
  | b :: bs => Memory.writeBlock (m.write a b) (a + 1) bs

/-! ## Registers -/

/-- `V[x]` (R8, R21). -/
def State.reg (s : State) (x : RegId) : Byte := s.v[x.toNat]'x.isLt

/-- `V[x] <- b` (R8, R21). -/
def State.setReg (s : State) (x : RegId) (b : Byte) : State :=
  { s with v := s.v.set x.toNat b x.isLt }

/-- The registers V`k`, V`k+1`, ... := the bytes, in ascending order (R155). -/
def State.setRegs (s : State) (k : Nat) : List Byte → State
  | [] => s
  | b :: bs => State.setRegs (s.setReg (BitVec.ofNat 4 k) b) (k + 1) bs

/-- The registers V`k`, ..., V`k+n-1` (R154). -/
def State.regBlock (s : State) (k : Nat) : Nat → List Byte
  | 0 => []
  | n + 1 => s.reg (BitVec.ofNat 4 k) :: State.regBlock s (k + 1) n

/-- `I <- w` (R24). -/
def State.setI (s : State) (w : Word) : State := { s with i := w }

/-! ## Timers -/

/-- `DT <- b` (R28). -/
def State.setDt (s : State) (b : Byte) : State := { s with dt := b }

/-- `ST <- b` (R28). -/
def State.setSt (s : State) (b : Byte) : State := { s with st := b }

/-! ## Program counter -/

/-- `pc <- w` (R25). -/
def State.setPc (s : State) (w : Word) : State := { s with pc := w }

/-- `pc <- pc + 2`, the default (R10, R26). -/
def State.advance (s : State) : State := s.setPc (s.pc + 2)

/-- A skip: `pc + 4` if the condition holds, else `pc + 2` (R26, R100). -/
def State.skipIf (s : State) (c : Bool) : State := s.setPc (if c then s.pc + 4 else s.pc + 2)

/-! ## Call stack (R27) -/

/-- Write `stack[sp]` and then increment `sp`; `none` when all 16 entries are in use. -/
def State.push (s : State) (w : Word) : Option State :=
  if h : s.sp.val < 16 then
    some { s with stack := s.stack.set s.sp.val w h, sp := ⟨s.sp.val + 1, by omega⟩ }
  else none

/-- Decrement `sp` and then read `stack[sp]`; `none` when no entry is in use. The popped entry keeps its value. -/
def State.pop (s : State) : Option (Word × State) :=
  if h : 0 < s.sp.val then
    some (s.stack[s.sp.val - 1]'(by have := s.sp.isLt; omega), { s with sp := ⟨s.sp.val - 1, by have := s.sp.isLt; omega⟩ })
  else none

/-! ## Keys and free values -/

/-- Take the next random byte (R34, R131): a free value, fresh at each draw (log 2). -/
def State.drawByte (s : State) : Byte × State :=
  (Config.randomByte s.draws, { s with draws := s.draws + 1 })

/-- `key[k]` (R31, R234): a level, read without side effect. -/
def State.key (s : State) (k : KeyId) : Bool := s.keys[k.toNat]'k.isLt

/-- The 16 logical key indices, lowest first (R31). -/
def allKeys : List KeyId := (List.range 16).map (BitVec.ofNat 4)

/-- The set P of R192: the keys pressed at this step. -/
def State.pressedKeys (s : State) : List KeyId := allKeys.filter s.key

/-- `KEY_PICK(P)` of R192: some member of the pressed keys, a free choice at each draw (log 6); `none` when no key is
pressed. -/
def State.pickKey (s : State) : Option (KeyId × State) :=
  match s.pressedKeys with
  | [] => none
  | k :: ks =>
    some ((k :: ks).getD (Config.keyPick s.draws (k :: ks) % (k :: ks).length) k,
      { s with draws := s.draws + 1 })

/-! ## Faults (R33, R210, R220) -/

/-- The cause code (R210). -/
def Fault.code : Fault → Fin 6
  | .unknownOpcode _ => 1
  | .stackOverflow _ => 2
  | .stackUnderflow _ => 3
  | .memoryOutOfRange _ => 4
  | .keyIndexOutOfRange _ => 5

/-- What `finfo` records (R210). -/
def Fault.info : Fault → Word
  | .unknownOpcode op => op
  | .stackOverflow sp => BitVec.ofNat 16 sp.val
  | .stackUnderflow sp => BitVec.ofNat 16 sp.val
  | .memoryOutOfRange addr => addr
  | .keyIndexOutOfRange k => k.setWidth 16

/-- `raise` (R8): take a fault (R220). Nothing changes but the fault record; control goes nowhere. -/
def State.raise (s : State) (f : Fault) : State :=
  { s with halted := true, cause := f.code, fpc := s.pc, finfo := f.info }

/-- The `Reset` event (R37, R250), the only way out of the halted state (R222): every piece of state at its reset
value, but the host's keys (D20), and the model's own `draws`, which name free values still to come. -/
def State.resetEvent (s : State) : State :=
  { State.reset with keys := s.keys, draws := s.draws }

end Sys2Proof.Machine
end

