-- ==== Sys2Proof/Machine/Flags.lean ====
section
/-!
DEFINITION. The flag computations of R22 and the order of R23: VF is always exactly 0 or 1, and it is written after
the result.
-/

namespace Sys2Proof.Machine

/-- A flag value: exactly 0 or 1 (R22). -/
def flagByte (c : Bool) : Byte := if c then 1 else 0

/-- `8XY4`: 1 iff the 9-bit sum is above 255 (R22, R126). -/
def carryFlag (a b : Byte) : Byte := flagByte (decide (a.toNat + b.toNat > 255))

/-- `8XY5`, and `8XY7` with its operands exchanged: 1 iff `a - b` does not borrow, that is `a ≥ b` (R22, R127, R129;
the convention is the spec's decision D1, log 7). -/
def noBorrowFlag (a b : Byte) : Byte := flagByte (decide (a.toNat ≥ b.toNat))

/-- `8XY6`: the bit shifted out at the right, bit 0 (R128). -/
def shrFlag (a : Byte) : Byte := flagByte (a.getLsbD 0)

/-- `8XYE`: the bit shifted out at the left, bit 7 (R130). -/
def shlFlag (a : Byte) : Byte := flagByte (a.getLsbD 7)

/-- The number of VF, the flag register (R22). -/
def vf : RegId := 0xF

/-- Write a result to VX and then a flag to VF (R23; the order is the spec's decision D2, log 7). -/
def State.setResultFlag (s : State) (x : RegId) (r f : Byte) : State :=
  (s.setReg x r).setReg vf f

end Sys2Proof.Machine
end

