-- ==== Sys2Proof/Machine/Operands.lean ====
section
/-!
DEFINITION. The operand forms: the zero-extended immediates (R83), the one data addressing mode, base register plus a
small offset (R156), with its range check (R53, R67), and the key a register selects (R190).
-/

namespace Sys2Proof.Machine

/-- NNN zero-extended to 16 bits (R83). -/
def zextNNN (nnn : Addr12) : Word := nnn.setWidth 16

/-- A register's value zero-extended to 16 bits (R108, R151, R152). -/
def zextByte (b : Byte) : Word := b.setWidth 16

/-- The range check of an access to the `n` bytes from a 16-bit base, as unbounded integers: the fault with the
lowest out-of-range address, or `none` when all are below 4096. No bytes, no check (R53, R67, R214). -/
def rangeFault (base : Word) (n : Nat) : Option Fault :=
  if n = 0 then none
  else if base.toNat + n ≤ Config.memSize then none
  else some (.memoryOutOfRange (if base.toNat ≥ Config.memSize then base else BitVec.ofNat 16 Config.memSize))

/-- How many registers `FX55` and `FX65` move: X + 1 (R83, R154). -/
def regCount (x : RegId) : Nat := x.toNat + 1

/-- The `n` bytes at I, I + 1, ... (R156). -/
def State.atI (s : State) (n : Nat) : List Byte := s.mem.readBlock s.i.toNat n

/-- Store bytes at I, I + 1, ... (R156). -/
def State.storeAtI (s : State) (bs : List Byte) : State :=
  { s with mem := s.mem.writeBlock s.i.toNat bs }

/-- I moved past the `n` bytes just accessed (R154, R155, R156). -/
def State.bumpI (s : State) (n : Nat) : State := s.setI (s.i + BitVec.ofNat 16 n)

/-- The decimal digits of a byte: hundreds, tens, ones (R153). -/
def bcdDigits (a : Byte) : List Byte := [a / 100, (a / 10) % 10, a % 10]

/-- The key flag a register value selects; `none` above 15: the whole register is the index (R190, R191; that an
index above 15 has no flag is R31, and the fault it leads to is the spec's decision D11, log 9). -/
def State.keyAt (s : State) (k : Byte) : Option Bool :=
  if k.toNat > 15 then none else some (s.key (k.setWidth 4))

end Sys2Proof.Machine
end

