-- ==== Sys2Proof/Machine/Alu.lean ====
section
/-!
DEFINITION. Register and ALU instructions (`41_alu.md`). Register arithmetic is unsigned 8-bit and wraps (R132); all
operands are read from the state before the instruction, and the flag is written after the result (R23).
-/

namespace Sys2Proof.Machine

/-- `6XNN` (R120). -/
def execLdImm (x : RegId) (nn : Byte) (s : State) : Host.Outcome State Fault Refusal :=
  .next (s.setReg x nn).advance

/-- `7XNN` (R121): no flag. -/
def execAddImm (x : RegId) (nn : Byte) (s : State) : Host.Outcome State Fault Refusal :=
  .next (s.setReg x (s.reg x + nn)).advance

/-- `8XY0` (R122). -/
def execLdReg (x y : RegId) (s : State) : Host.Outcome State Fault Refusal :=
  .next (s.setReg x (s.reg y)).advance

/-- `8XY1` (R123): VF is left alone (D3). -/
def execOrReg (x y : RegId) (s : State) : Host.Outcome State Fault Refusal :=
  .next (s.setReg x (s.reg x ||| s.reg y)).advance

/-- `8XY2` (R124): VF is left alone (D3). -/
def execAndReg (x y : RegId) (s : State) : Host.Outcome State Fault Refusal :=
  .next (s.setReg x (s.reg x &&& s.reg y)).advance

/-- `8XY3` (R125): VF is left alone (D3). -/
def execXorReg (x y : RegId) (s : State) : Host.Outcome State Fault Refusal :=
  .next (s.setReg x (s.reg x ^^^ s.reg y)).advance

/-- `8XY4` (R126). -/
def execAddReg (x y : RegId) (s : State) : Host.Outcome State Fault Refusal :=
  .next (s.setResultFlag x (s.reg x + s.reg y) (carryFlag (s.reg x) (s.reg y))).advance

/-- `8XY5` (R127). -/
def execSubReg (x y : RegId) (s : State) : Host.Outcome State Fault Refusal :=
  .next (s.setResultFlag x (s.reg x - s.reg y) (noBorrowFlag (s.reg x) (s.reg y))).advance

/-- `8XY6` (R128): VX in place; the field Y is not used (R91). -/
def execShr (x _y : RegId) (s : State) : Host.Outcome State Fault Refusal :=
  .next (s.setResultFlag x (s.reg x >>> 1) (shrFlag (s.reg x))).advance

/-- `8XY7` (R129). -/
def execSubnReg (x y : RegId) (s : State) : Host.Outcome State Fault Refusal :=
  .next (s.setResultFlag x (s.reg y - s.reg x) (noBorrowFlag (s.reg y) (s.reg x))).advance

/-- `8XYE` (R130): VX in place; the field Y is not used (R91). -/
def execShl (x _y : RegId) (s : State) : Host.Outcome State Fault Refusal :=
  .next (s.setResultFlag x (s.reg x <<< 1) (shlFlag (s.reg x))).advance

/-- `CXNN` (R131, R235): the byte is a free value (log 2). -/
def execRnd (x : RegId) (nn : Byte) (s : State) : Host.Outcome State Fault Refusal :=
  .next (s.drawByte.2.setReg x (nn &&& s.drawByte.1)).advance

end Sys2Proof.Machine
end

