-- ==== Sys2Proof/Machine/Display.lean ====
section
/-!
DEFINITION. The Display device (`60_exceptions.md` R229, R230) and the display instructions (`43_display.md`).
-/

namespace Sys2Proof.Machine

/-! ## The device -/

/-- `grid[r][c]` (R32). -/
def Grid.pixel (g : Grid) (r : Fin 32) (c : Fin 64) : Bool := (g[r.val])[c.val]

/-- `grid[r][c] <- grid[r][c] ^ 1` (R230). -/
def Grid.flip (g : Grid) (r : Fin 32) (c : Fin 64) : Grid :=
  g.set r.val ((g[r.val]).set c.val (!g.pixel r c))

/-- The grid with every pixel 0 (R229). -/
def Grid.blank : Grid := Vector.replicate 32 (Vector.replicate 64 false)

/-- What a draw in progress has so far: the grid, whether a set pixel was turned off, whether a pixel changed. -/
structure Canvas where
  grid      : Grid
  collision : Bool
  changed   : Bool
  deriving DecidableEq, Repr

/-- One sprite bit onto one pixel: a 0 bit leaves it alone (R230). -/
def Canvas.drawBit (d : Canvas) (r : Fin 32) (c : Fin 64) (bit : Bool) : Canvas :=
  if bit then ⟨d.grid.flip r c, d.collision || d.grid.pixel r c, true⟩ else d

/-- Bit `k` of a sprite byte counted from the left: column 0 is bit 7 (R230; the spec's own from general knowledge,
D15, log 8). -/
def spriteBit (b : Byte) (k : Nat) : Bool := b.getLsbD (7 - k)

/-- The columns `k`, `k+1`, ... of one sprite row (R230): column `k` lands on grid column (x + k) mod 64. -/
def Canvas.drawCols (d : Canvas) (r : Fin 32) (x : Nat) (b : Byte) (k : Nat) : Nat → Canvas
  | 0 => d
  | n + 1 => Canvas.drawCols (d.drawBit r (Fin.ofNat 64 (x + k)) (spriteBit b k)) r x b (k + 1) n

/-- The rows `j`, `j+1`, ... of a sprite (R230): row `j` lands on grid row (y + j) mod 32. -/
def Canvas.drawRows (d : Canvas) (x y : Nat) (j : Nat) : List Byte → Canvas
  | [] => d
  | b :: bs => Canvas.drawRows (d.drawCols (Fin.ofNat 32 (y + j)) x b 0 8) x y (j + 1) bs

/-- `DisplayClear()` (R229): dirty even when the grid was already blank. -/
def State.displayClear (s : State) : State := { s with grid := Grid.blank, dirty := true }

/-- The outcome of `DisplayDraw(x, y, rows)` on the grid (R230). -/
def State.canvas (s : State) (x y : Byte) (rows : List Byte) : Canvas :=
  Canvas.drawRows ⟨s.grid, false, false⟩ x.toNat y.toNat 0 rows

/-- `DisplayDraw(x, y, rows)` (R230): the new state and the collision result; `dirty` is never cleared by a draw. -/
def State.displayDraw (s : State) (x y : Byte) (rows : List Byte) : State × Bool :=
  let d := s.canvas x y rows
  ({ s with grid := d.grid, dirty := s.dirty || d.changed }, d.collision)

/-! ## The instructions -/

/-- `00E0` (R170). -/
def execCls (s : State) : Host.Outcome State Fault Refusal :=
  .next s.displayClear.advance

/-- `DXYN` (R171, R214): VF is written on every draw; N = 0 checks nothing and draws nothing (D17). -/
def execDrw (x y : RegId) (n : Nibble) (s : State) : Host.Outcome State Fault Refusal :=
  match rangeFault s.i n.toNat with
  | some f => .next (s.raise f)
  | none =>
    let r := s.displayDraw (s.reg x) (s.reg y) (s.atI n.toNat)
    .next (r.1.setReg vf (flagByte r.2)).advance

end Sys2Proof.Machine
end

