-- ==== Sys2Proof/Machine/Flow.lean ====
section
/-!
DEFINITION. Control transfer (`40_flow.md`): return, jump, call, skips, indexed jump. In every meaning `s.pc` is the
address of the instruction (R25).
-/

namespace Sys2Proof.Machine

/-- `00EE` (R101, R213): the popped entry is used as it is. -/
def execRet (s : State) : Host.Outcome State Fault Refusal :=
  match s.pop with
  | none => .next (s.raise (.stackUnderflow s.sp))
  | some (w, t) => .next (t.setPc w)

/-- `1NNN` (R102). -/
def execJp (nnn : Addr12) (s : State) : Host.Outcome State Fault Refusal :=
  .next (s.setPc (zextNNN nnn))

/-- `2NNN` (R103, R212): the entry pushed is the address of the instruction after the call (D10, C1). -/
def execCall (nnn : Addr12) (s : State) : Host.Outcome State Fault Refusal :=
  match s.push (s.pc + 2) with
  | none => .next (s.raise (.stackOverflow s.sp))
  | some t => .next (t.setPc (zextNNN nnn))

/-- `3XNN` (R104). -/
def execSeImm (x : RegId) (nn : Byte) (s : State) : Host.Outcome State Fault Refusal :=
  .next (s.skipIf (s.reg x == nn))

/-- `4XNN` (R105). -/
def execSneImm (x : RegId) (nn : Byte) (s : State) : Host.Outcome State Fault Refusal :=
  .next (s.skipIf (s.reg x != nn))

/-- `5XY0` (R106). -/
def execSeReg (x y : RegId) (s : State) : Host.Outcome State Fault Refusal :=
  .next (s.skipIf (s.reg x == s.reg y))

/-- `9XY0` (R107). -/
def execSneReg (x y : RegId) (s : State) : Host.Outcome State Fault Refusal :=
  .next (s.skipIf (s.reg x != s.reg y))

/-- `BNNN` (R108): always V0, and no mask on the sum (D27). -/
def execJpV0 (nnn : Addr12) (s : State) : Host.Outcome State Fault Refusal :=
  .next (s.setPc (zextByte (s.reg 0) + zextNNN nnn))

end Sys2Proof.Machine
end

