-- ==== Sys2Proof/Machine/IndexMemory.lean ====
section
/-!
DEFINITION. Index register and memory instructions (`42_index_memory.md`). A multi-byte instruction checks every
address before it does anything (R67).
-/

namespace Sys2Proof.Machine

/-- `ANNN` (R150). -/
def execLdI (nnn : Addr12) (s : State) : Host.Outcome State Fault Refusal :=
  .next (s.setI (zextNNN nnn)).advance

/-- `FX1E` (R151): modulo 65536, no flag (D6). -/
def execAddI (x : RegId) (s : State) : Host.Outcome State Fault Refusal :=
  .next (s.setI (s.i + zextByte (s.reg x))).advance

/-- `FX29` (R152): the whole VX times 5 (D28). -/
def execLdFont (x : RegId) (s : State) : Host.Outcome State Fault Refusal :=
  .next (s.setI (zextByte (s.reg x) * 5)).advance

/-- `FX33` (R153, R214). -/
def execLdBcd (x : RegId) (s : State) : Host.Outcome State Fault Refusal :=
  match rangeFault s.i 3 with
  | some f => .next (s.raise f)
  | none => .next (s.storeAtI (bcdDigits (s.reg x))).advance

/-- `FX55` (R154, R214). -/
def execStRegs (x : RegId) (s : State) : Host.Outcome State Fault Refusal :=
  match rangeFault s.i (regCount x) with
  | some f => .next (s.raise f)
  | none => .next ((s.storeAtI (s.regBlock 0 (regCount x))).bumpI (regCount x)).advance

/-- `FX65` (R155, R214). -/
def execLdRegs (x : RegId) (s : State) : Host.Outcome State Fault Refusal :=
  match rangeFault s.i (regCount x) with
  | some f => .next (s.raise f)
  | none => .next ((s.setRegs 0 (s.atI (regCount x))).bumpI (regCount x)).advance

end Sys2Proof.Machine
end

