-- ==== Sys2Proof/Machine/KeypadTimers.lean ====
section
/-!
DEFINITION. Keypad and timer instructions (`44_keypad_timers.md`). Which of `FX07`, `FX15`, `FX18` does what is the
spec's own from general knowledge (D13, log 10).
-/

namespace Sys2Proof.Machine

/-- `EX9E` (R190, R215). -/
def execSkp (x : RegId) (s : State) : Host.Outcome State Fault Refusal :=
  match s.keyAt (s.reg x) with
  | none => .next (s.raise (.keyIndexOutOfRange (s.reg x)))
  | some pressed => .next (s.skipIf pressed)

/-- `EXA1` (R191, R215). -/
def execSknp (x : RegId) (s : State) : Host.Outcome State Fault Refusal :=
  match s.keyAt (s.reg x) with
  | none => .next (s.raise (.keyIndexOutOfRange (s.reg x)))
  | some pressed => .next (s.skipIf (!pressed))

/-- `FX07` (R193). -/
def execLdFromDt (x : RegId) (s : State) : Host.Outcome State Fault Refusal :=
  .next (s.setReg x s.dt).advance

/-- `FX0A` (R192): with no key pressed nothing changes, `pc` included, so the next step executes it again. -/
def execLdKey (x : RegId) (s : State) : Host.Outcome State Fault Refusal :=
  match s.pickKey with
  | none => .next s
  | some (k, t) => .next (t.setReg x (k.setWidth 8)).advance

/-- `FX15` (R194). -/
def execLdDt (x : RegId) (s : State) : Host.Outcome State Fault Refusal :=
  .next (s.setDt (s.reg x)).advance

/-- `FX18` (R195). -/
def execLdSt (x : RegId) (s : State) : Host.Outcome State Fault Refusal :=
  .next (s.setSt (s.reg x)).advance

end Sys2Proof.Machine
end

