-- ==== Sys2Proof/Syntax.lean ====
section
/-!
DEFINITION. The instruction set as syntax: one constructor per row of `spec/opcode_table.json`, which is the table of
`30_encoding.md` R85, in the table's order. The operand types carry the fields' widths (R81), so every term is an
instruction; the constructors bear the names R84 gives the instructions.
-/

namespace Sys2Proof

/-- The 34 instructions (R1, R85). -/
inductive Instr where
  /-- `00E0` clear the display (R170). -/
  | cls
  /-- `00EE` return (R101). -/
  | ret
  /-- `1NNN` jump (R102). -/
  | jp (nnn : Addr12)
  /-- `2NNN` call (R103). -/
  | call (nnn : Addr12)
  /-- `3XNN` skip if VX = NN (R104). -/
  | seImm (x : RegId) (nn : Byte)
  /-- `4XNN` skip if VX ≠ NN (R105). -/
  | sneImm (x : RegId) (nn : Byte)
  /-- `5XY0` skip if VX = VY (R106). -/
  | seReg (x y : RegId)
  /-- `6XNN` load immediate (R120). -/
  | ldImm (x : RegId) (nn : Byte)
  /-- `7XNN` add immediate (R121). -/
  | addImm (x : RegId) (nn : Byte)
  /-- `8XY0` copy register (R122). -/
  | ldReg (x y : RegId)
  /-- `8XY1` OR (R123). -/
  | orReg (x y : RegId)
  /-- `8XY2` AND (R124). -/
  | andReg (x y : RegId)
  /-- `8XY3` XOR (R125). -/
  | xorReg (x y : RegId)
  /-- `8XY4` add with carry flag (R126). -/
  | addReg (x y : RegId)
  /-- `8XY5` subtract VY from VX (R127). -/
  | subReg (x y : RegId)
  /-- `8XY6` shift right by one; `y` is encoded and not used (R128, R91). -/
  | shr (x y : RegId)
  /-- `8XY7` subtract VX from VY (R129). -/
  | subnReg (x y : RegId)
  /-- `8XYE` shift left by one; `y` is encoded and not used (R130, R91). -/
  | shl (x y : RegId)
  /-- `9XY0` skip if VX ≠ VY (R107). -/
  | sneReg (x y : RegId)
  /-- `ANNN` load I (R150). -/
  | ldI (nnn : Addr12)
  /-- `BNNN` jump to V0 + NNN (R108). -/
  | jpV0 (nnn : Addr12)
  /-- `CXNN` random byte AND NN (R131). -/
  | rnd (x : RegId) (nn : Byte)
  /-- `DXYN` draw a sprite of N rows (R171). -/
  | drw (x y : RegId) (n : Nibble)
  /-- `EX9E` skip if key VX is pressed (R190). -/
  | skp (x : RegId)
  /-- `EXA1` skip if key VX is not pressed (R191). -/
  | sknp (x : RegId)
  /-- `FX07` read the delay timer (R193). -/
  | ldFromDt (x : RegId)
  /-- `FX0A` wait for a key (R192). -/
  | ldKey (x : RegId)
  /-- `FX15` write the delay timer (R194). -/
  | ldDt (x : RegId)
  /-- `FX18` write the sound timer (R195). -/
  | ldSt (x : RegId)
  /-- `FX1E` add VX to I (R151). -/
  | addI (x : RegId)
  /-- `FX29` address of a font glyph (R152). -/
  | ldFont (x : RegId)
  /-- `FX33` store the decimal digits of VX (R153). -/
  | ldBcd (x : RegId)
  /-- `FX55` store V0..VX (R154). -/
  | stRegs (x : RegId)
  /-- `FX65` load V0..VX (R155). -/
  | ldRegs (x : RegId)
  deriving DecidableEq, Repr

end Sys2Proof
end

