-- ==== Sys2Proof/WellFormed.lean ====
section
/-!
DEFINITION. Which 16-bit words are instructions: the match and mask table of `30_encoding.md` R85, with the strict
patterns of R86. The operands of an `Instr` are fields of exactly the encoding's widths, so a term of `Instr` has
nothing left to check; what can be ill formed is a word, and `Word.wellFormed` checks it against the table.
-/

namespace Sys2Proof

/-- One row of the table of R85: a word `op` is the row's instruction iff `op &&& mask = pattern`. -/
structure OpcodeRow where
  mnemonic : String
  pattern  : Word
  mask     : Word
  deriving DecidableEq, Repr

/-- The 34 rows of R85, in its order, under the mnemonics of `spec/opcode_table.json`. -/
def opcodeTable : List OpcodeRow :=
  [⟨"CLS",           0x00E0, 0xFFFF⟩, ⟨"RET",           0x00EE, 0xFFFF⟩,
   ⟨"JP_nnn",        0x1000, 0xF000⟩, ⟨"CALL_nnn",      0x2000, 0xF000⟩,
   ⟨"SE_Vx__nn",     0x3000, 0xF000⟩, ⟨"SNE_Vx__nn",    0x4000, 0xF000⟩,
   ⟨"SE_Vx__Vy",     0x5000, 0xF00F⟩, ⟨"LD_Vx__nn",     0x6000, 0xF000⟩,
   ⟨"ADD_Vx__nn",    0x7000, 0xF000⟩, ⟨"LD_Vx__Vy",     0x8000, 0xF00F⟩,
   ⟨"OR_Vx__Vy",     0x8001, 0xF00F⟩, ⟨"AND_Vx__Vy",    0x8002, 0xF00F⟩] ++
  [⟨"XOR_Vx__Vy",    0x8003, 0xF00F⟩, ⟨"ADD_Vx__Vy",    0x8004, 0xF00F⟩,
   ⟨"SUB_Vx__Vy",    0x8005, 0xF00F⟩, ⟨"SHR_Vx",        0x8006, 0xF00F⟩,
   ⟨"SUBN_Vx__Vy",   0x8007, 0xF00F⟩, ⟨"SHL_Vx",        0x800E, 0xF00F⟩,
   ⟨"SNE_Vx__Vy",    0x9000, 0xF00F⟩, ⟨"LD_I__nnn",     0xA000, 0xF000⟩,
   ⟨"JP_V0__nnn",    0xB000, 0xF000⟩, ⟨"RND_Vx__nn",    0xC000, 0xF000⟩,
   ⟨"DRW_Vx__Vy__n", 0xD000, 0xF000⟩] ++
  [⟨"SKP_Vx",        0xE09E, 0xF0FF⟩, ⟨"SKNP_Vx",       0xE0A1, 0xF0FF⟩,
   ⟨"LD_Vx__DT",     0xF007, 0xF0FF⟩, ⟨"LD_Vx__K",      0xF00A, 0xF0FF⟩,
   ⟨"LD_DT__Vx",     0xF015, 0xF0FF⟩, ⟨"LD_ST__Vx",     0xF018, 0xF0FF⟩,
   ⟨"ADD_I__Vx",     0xF01E, 0xF0FF⟩, ⟨"LD_F__Vx",      0xF029, 0xF0FF⟩,
   ⟨"LD_B__Vx",      0xF033, 0xF0FF⟩, ⟨"LD__I___Vx",    0xF055, 0xF0FF⟩,
   ⟨"LD_Vx___I",     0xF065, 0xF0FF⟩]

/-- The word is the row's instruction (R85). -/
def OpcodeRow.selects (r : OpcodeRow) (op : Word) : Bool :=
  op &&& r.mask == r.pattern

/-- The word is one of the 34 instructions; every other word is an unknown encoding (R85, R87, R88). -/
def Word.wellFormed (op : Word) : Bool :=
  opcodeTable.any (·.selects op)

/-- The row of an instruction, by its mnemonic in `spec/opcode_table.json`. -/
def Instr.mnemonic : Instr → String
  | .cls => "CLS"
  | .ret => "RET"
  | .jp _ => "JP_nnn"
  | .call _ => "CALL_nnn"
  | .seImm _ _ => "SE_Vx__nn"
  | .sneImm _ _ => "SNE_Vx__nn"
  | .seReg _ _ => "SE_Vx__Vy"
  | .ldImm _ _ => "LD_Vx__nn"
  | .addImm _ _ => "ADD_Vx__nn"
  | .ldReg _ _ => "LD_Vx__Vy"
  | .orReg _ _ => "OR_Vx__Vy"
  | .andReg _ _ => "AND_Vx__Vy"
  | .xorReg _ _ => "XOR_Vx__Vy"
  | .addReg _ _ => "ADD_Vx__Vy"
  | .subReg _ _ => "SUB_Vx__Vy"
  | .shr _ _ => "SHR_Vx"
  | .subnReg _ _ => "SUBN_Vx__Vy"
  | .shl _ _ => "SHL_Vx"
  | .sneReg _ _ => "SNE_Vx__Vy"
  | .ldI _ => "LD_I__nnn"
  | .jpV0 _ => "JP_V0__nnn"
  | .rnd _ _ => "RND_Vx__nn"
  | .drw _ _ _ => "DRW_Vx__Vy__n"
  | .skp _ => "SKP_Vx"
  | .sknp _ => "SKNP_Vx"
  | .ldFromDt _ => "LD_Vx__DT"
  | .ldKey _ => "LD_Vx__K"
  | .ldDt _ => "LD_DT__Vx"
  | .ldSt _ => "LD_ST__Vx"
  | .addI _ => "ADD_I__Vx"
  | .ldFont _ => "LD_F__Vx"
  | .ldBcd _ => "LD_B__Vx"
  | .stRegs _ => "LD__I___Vx"
  | .ldRegs _ => "LD_Vx___I"

end Sys2Proof
end

