-- ==== Sys2Proof/Decode.lean ====
section
/-!
DEFINITION. Decoding and encoding (`30_encoding.md`): the fields of an opcode (R81), the decode algorithm (R84) with
strict patterns (R86), the big-endian assembly of two bytes (R80, R55), the encoder by the formats of R82, and
`decodeTableWord`, which reads a word numbered as `spec/opcode_table.json` numbers it.
-/

namespace Sys2Proof

/-! ## Fields (R81) -/

/-- `op[15:12]`, the family. -/
def opFamily (op : Word) : Nibble := op.extractLsb' 12 4
/-- `X = op[11:8]`. -/
def opX (op : Word) : RegId := op.extractLsb' 8 4
/-- `Y = op[7:4]`. -/
def opY (op : Word) : RegId := op.extractLsb' 4 4
/-- `N = op[3:0]`. -/
def opN (op : Word) : Nibble := op.extractLsb' 0 4
/-- `NN = op[7:0]`. -/
def opNN (op : Word) : Byte := op.extractLsb' 0 8
/-- `NNN = op[11:0]`. -/
def opNNN (op : Word) : Addr12 := op.extractLsb' 0 12

/-! ## Decode (R84) -/

/-- Family 0x0: all 16 bits must match (R86). -/
def decodeFamily0 (op : Word) : Option Instr :=
  if op = 0x00E0 then some .cls
  else if op = 0x00EE then some .ret
  else none

/-- Family 0x8: the low nibble selects. -/
def decodeFamily8 (op : Word) : Option Instr :=
  if opN op = 0x0 then some (.ldReg (opX op) (opY op))
  else if opN op = 0x1 then some (.orReg (opX op) (opY op))
  else if opN op = 0x2 then some (.andReg (opX op) (opY op))
  else if opN op = 0x3 then some (.xorReg (opX op) (opY op))
  else if opN op = 0x4 then some (.addReg (opX op) (opY op))
  else if opN op = 0x5 then some (.subReg (opX op) (opY op))
  else if opN op = 0x6 then some (.shr (opX op) (opY op))
  else if opN op = 0x7 then some (.subnReg (opX op) (opY op))
  else if opN op = 0xE then some (.shl (opX op) (opY op))
  else none

/-- Family 0xE: the low byte selects. -/
def decodeFamilyE (op : Word) : Option Instr :=
  if opNN op = 0x9E then some (.skp (opX op))
  else if opNN op = 0xA1 then some (.sknp (opX op))
  else none

/-- Family 0xF: the low byte selects. -/
def decodeFamilyF (op : Word) : Option Instr :=
  if opNN op = 0x07 then some (.ldFromDt (opX op))
  else if opNN op = 0x0A then some (.ldKey (opX op))
  else if opNN op = 0x15 then some (.ldDt (opX op))
  else if opNN op = 0x18 then some (.ldSt (opX op))
  else if opNN op = 0x1E then some (.addI (opX op))
  else if opNN op = 0x29 then some (.ldFont (opX op))
  else if opNN op = 0x33 then some (.ldBcd (opX op))
  else if opNN op = 0x55 then some (.stRegs (opX op))
  else if opNN op = 0x65 then some (.ldRegs (opX op))
  else none

/-- `Decode(op)` of R84; `none` is `UnknownOpcode` (R87). It depends on the 16 bits alone. -/
def decodeWord (op : Word) : Option Instr :=
  if opFamily op = 0x0 then decodeFamily0 op
  else if opFamily op = 0x1 then some (.jp (opNNN op))
  else if opFamily op = 0x2 then some (.call (opNNN op))
  else if opFamily op = 0x3 then some (.seImm (opX op) (opNN op))
  else if opFamily op = 0x4 then some (.sneImm (opX op) (opNN op))
  else if opFamily op = 0x5 then
    if opN op = 0x0 then some (.seReg (opX op) (opY op)) else none
  else if opFamily op = 0x6 then some (.ldImm (opX op) (opNN op))
  else if opFamily op = 0x7 then some (.addImm (opX op) (opNN op))
  else if opFamily op = 0x8 then decodeFamily8 op
  else if opFamily op = 0x9 then
    if opN op = 0x0 then some (.sneReg (opX op) (opY op)) else none
  else if opFamily op = 0xA then some (.ldI (opNNN op))
  else if opFamily op = 0xB then some (.jpV0 (opNNN op))
  else if opFamily op = 0xC then some (.rnd (opX op) (opNN op))
  else if opFamily op = 0xD then some (.drw (opX op) (opY op) (opN op))
  else if opFamily op = 0xE then decodeFamilyE op
  else decodeFamilyF op

/-- What the decoder reads from bytes: an instruction and the bytes after it, or a rejection by name. -/
inductive Decoded where
  /-- An instruction and the bytes that follow it. -/
  | instr (i : Instr) (rest : List Byte)
  /-- The word is no instruction (R87). -/
  | unknownOpcode (op : Word)
  /-- Fewer than two bytes: no instruction is that short (R80). -/
  | truncated
  deriving DecidableEq, Repr

/-- The big-endian word of two consecutive bytes, the first in the high half (R55, R80). -/
def wordOfBytes (hi lo : Byte) : Word := hi ++ lo

/-- The two bytes of a word as they stand in memory, high byte first (R55). -/
def bytesOfWord (w : Word) : List Byte := [w.extractLsb' 8 8, w.extractLsb' 0 8]

/-- Decode the first instruction of a byte sequence (R80, R84). -/
def decode : List Byte → Decoded
  | hi :: lo :: rest =>
    match decodeWord (wordOfBytes hi lo) with
    | some i => .instr i rest
    | none => .unknownOpcode (wordOfBytes hi lo)
  | _ => .truncated

/-! ## Encode (R82, R85) -/

/-- Format NNN: `oooo nnnn nnnn nnnn`. -/
def packNNN (op : Nibble) (nnn : Addr12) : Word := op ++ nnn
/-- Format XNN: `oooo xxxx kkkk kkkk`; format XSS is the same with a fixed low byte. -/
def packXNN (op : Nibble) (x : RegId) (nn : Byte) : Word := op ++ (x ++ nn)
/-- Formats XYS and XYN: `oooo xxxx yyyy nnnn`. -/
def packXYN (op : Nibble) (x y : RegId) (n : Nibble) : Word := op ++ (x ++ (y ++ n))

/-- The word of an instruction, by its row of R85. -/
def encode : Instr → Word
  | .cls => 0x00E0
  | .ret => 0x00EE
  | .jp nnn => packNNN 0x1 nnn
  | .call nnn => packNNN 0x2 nnn
  | .seImm x nn => packXNN 0x3 x nn
  | .sneImm x nn => packXNN 0x4 x nn
  | .seReg x y => packXYN 0x5 x y 0x0
  | .ldImm x nn => packXNN 0x6 x nn
  | .addImm x nn => packXNN 0x7 x nn
  | .ldReg x y => packXYN 0x8 x y 0x0
  | .orReg x y => packXYN 0x8 x y 0x1
  | .andReg x y => packXYN 0x8 x y 0x2
  | .xorReg x y => packXYN 0x8 x y 0x3
  | .addReg x y => packXYN 0x8 x y 0x4
  | .subReg x y => packXYN 0x8 x y 0x5
  | .shr x y => packXYN 0x8 x y 0x6
  | .subnReg x y => packXYN 0x8 x y 0x7
  | .shl x y => packXYN 0x8 x y 0xE
  | .sneReg x y => packXYN 0x9 x y 0x0
  | .ldI nnn => packNNN 0xA nnn
  | .jpV0 nnn => packNNN 0xB nnn
  | .rnd x nn => packXNN 0xC x nn
  | .drw x y n => packXYN 0xD x y n
  | .skp x => packXNN 0xE x 0x9E
  | .sknp x => packXNN 0xE x 0xA1
  | .ldFromDt x => packXNN 0xF x 0x07
  | .ldKey x => packXNN 0xF x 0x0A
  | .ldDt x => packXNN 0xF x 0x15
  | .ldSt x => packXNN 0xF x 0x18
  | .addI x => packXNN 0xF x 0x1E
  | .ldFont x => packXNN 0xF x 0x29
  | .ldBcd x => packXNN 0xF x 0x33
  | .stRegs x => packXNN 0xF x 0x55
  | .ldRegs x => packXNN 0xF x 0x65

/-- The bytes of an instruction in memory order. -/
def encodeBytes (i : Instr) : List Byte := bytesOfWord (encode i)

/-! ## The opcode table's numbering -/

/-- The first word of an instruction given as a number: bit 0 is its least significant bit, and the bits from
`nbits` up are 0. No instruction is longer than this one word (R80). -/
def tableWord (nbits w : Nat) : Word := BitVec.ofNat 16 (w % 2 ^ nbits)

/-- What the decoder reads from the instruction whose bits are `w`, its word laid out in memory order. -/
def decodeTableWord (nbits w : Nat) : Option Instr :=
  match decode (bytesOfWord (tableWord nbits w)) with
  | .instr i _ => some i
  | .unknownOpcode _ => none
  | .truncated => none

end Sys2Proof
end

