-- ==== Sys2Proof/Machine/Fetch.lean ====
section
/-!
DEFINITION. The phases of a `Step` before the instruction's own rule (R10): the halted core (R223), the fetch of two
bytes at `pc` (R54, R55), decode (R84), and placing a word where the next fetch reads it.
-/

namespace Sys2Proof.Machine

/-- What a step finds before it executes. -/
inductive Fetched where
  /-- The core is halted: nothing is fetched (R223). -/
  | halted
  /-- The word cannot be fetched or decoded (R219: fetch before decode). -/
  | fault (f : Fault)
  /-- The instruction to execute. -/
  | run (i : Instr)
  deriving DecidableEq, Repr

/-- The halted check, then fetch, then decode (R10, R84, R211, R214, R219). -/
def State.fetch (s : State) : Fetched :=
  if s.halted then .halted
  else
    match rangeFault s.pc 2 with
    | some f => .fault f
    | none =>
      match decodeWord (s.mem.readWord s.pc.toNat) with
      | some i => .run i
      | none => .fault (.unknownOpcode (s.mem.readWord s.pc.toNat))

/-- A `Step` on a halted core changes nothing (R223). -/
def haltedStep (s : State) : Host.Outcome State Fault Refusal := .next s

/-- A `Step` whose fetch or decode faults takes that fault (R220). -/
def faultStep (f : Fault) (s : State) : Host.Outcome State Fault Refusal := .next (s.raise f)

/-- A state whose next step fetches: not halted, and `pc` where two bytes can be read. Both hold at reset. -/
def State.readyToFetch (s : State) : State :=
  let t := if s.halted then { s with halted := false, cause := 0, fpc := 0, finfo := 0 } else s
  if t.pc.toNat + 2 ≤ Config.memSize then t else t.setPc (BitVec.ofNat 16 Config.programBase)

/-- Place a word at `pc`, high byte first (R55). -/
def State.placeAtPc (s : State) (w : Word) : State :=
  { s with mem := s.mem.writeBlock s.pc.toNat (bytesOfWord w) }

end Sys2Proof.Machine
end

