-- ==== Sys2Proof/Machine/Step.lean ====
section
/-!
DEFINITION. The `Step` event (`00_scope.md` R10): a halted core changes nothing, a fault of fetch or decode is taken,
and otherwise the decoded instruction is executed, all as one indivisible step (R57).
-/

namespace Sys2Proof.Machine

/-- `Step()` (R10, R219, R223). -/
def step (s : State) : Host.Outcome State Fault Refusal :=
  match s.fetch with
  | .halted => haltedStep s
  | .fault f => faultStep f s
  | .run i => exec i s

/-- The state with the instruction whose bits are `w` (numbered as the opcode table numbers them) stored where the
next step fetches. A halted core, or a `pc` no word can be fetched from, is first made ready; at reset neither
applies, and only the two bytes at `pc` change. -/
def State.withFetchWord (s : State) (nbits w : Nat) : State :=
  s.readyToFetch.placeAtPc (tableWord nbits w)

end Sys2Proof.Machine
end

