-- ==== Sys2Proof/Machine/Events.lean ====
section
/-!
DEFINITION. The host's events (`00_scope.md` R9, `70_reset_and_hazards.md` R256): `Tick` (R226), `KeySet` (R233),
`TakeDirty` (R231), `Load` (R252), `Reset` (R250) and `Step`; the outputs `tone` and `beep_edge` (R29); and the boot
phase (R253), which says when `Load` may come. The order of events is the host's free choice (R9), so a run is a list
of events.
-/

namespace Sys2Proof.Machine

/-- The level output `tone`: 1 iff ST ≠ 0 (R29). -/
def State.tone (s : State) : Bool := s.st != 0

/-- One timer's part of a `Tick`: down by 1 while above 0 (R226). -/
def countDown (b : Byte) : Byte := if b = 0 then 0 else b - 1

/-- The output pulse `beep_edge` of a `Tick`: the one that takes ST from 1 to 0; none while halted (R29, R223, R226). -/
def State.beepEdge (s : State) : Bool := !s.halted && s.st == 1

/-- The `Tick` event: both timers count down; nothing while halted (R223, R226). -/
def State.tick (s : State) : State :=
  if s.halted then s else { s with dt := countDown s.dt, st := countDown s.st }

/-- The `KeySet(k, b)` event, halted or not (R223, R233). An index above 15 is no `KeyId`: the host never makes that
move (R233). -/
def State.keySet (s : State) (k : KeyId) (b : Bool) : State :=
  { s with keys := s.keys.set k.toNat b k.isLt }

/-- The `TakeDirty` event, halted or not; it answers the old flag, `s.dirty` (R223, R231). -/
def State.takeDirty (s : State) : State := { s with dirty := false }

/-- The `Load(rom)` event: the bytes at 0x200 upward, or `none`, `RomTooLarge`, for more than 3584 of them (R216, R252). -/
def State.load (s : State) (rom : List Byte) : Option State :=
  if rom.length > Config.romMax then none
  else some { s with mem := s.mem.writeBlock Config.programBase rom }

/-- The six events (R9). -/
inductive Event where
  | reset
  | load (rom : List Byte)
  | step
  | tick
  | keySet (k : KeyId) (b : Bool)
  | takeDirty
  deriving DecidableEq, Repr

/-- What an event answers to the host (R256). -/
inductive Answer where
  /-- Nothing is answered. -/
  | silent
  /-- `Load` accepted the image (R252). -/
  | loaded
  /-- `Load` refused the image and changed nothing (R216). -/
  | romTooLarge
  /-- The `beep_edge` of a `Tick` (R29). -/
  | beep (edge : Bool)
  /-- The flag `TakeDirty` found (R231). -/
  | dirty (was : Bool)
  deriving DecidableEq, Repr

/-- The boot phase runs from a `Reset` to the first `Step` or `Tick` after it (R253). -/
inductive Phase where
  | boot
  | running
  deriving DecidableEq, Repr

/-- The machine with the phase of the host's protocol. -/
structure System where
  state : State
  phase : Phase
  deriving DecidableEq, Repr

/-- The system at power-on: reset, in the boot phase (R250, R253). -/
def System.powerOn : System := ⟨State.reset, .boot⟩

/-- One event. `none`: a move the host is assumed never to make, which gets no step: a `Load` outside the boot phase
(R252). A `Step` that does not end in a next state would be `none` too; no step of this machine does (log 3). -/
def System.event (y : System) : Event → Option (System × Answer)
  | .reset => some (⟨y.state.resetEvent, .boot⟩, .silent)
  | .load rom =>
    match y.phase with
    | .running => none
    | .boot =>
      match y.state.load rom with
      | none => some (y, .romTooLarge)
      | some s => some (⟨s, .boot⟩, .loaded)
  | .step =>
    match step y.state with
    | .next s => some (⟨s, .running⟩, .silent)
    | .fault _ => none
    | .refused _ => none
  | .tick => some (⟨y.state.tick, .running⟩, .beep y.state.beepEdge)
  | .keySet k b => some (⟨y.state.keySet k b, y.phase⟩, .silent)
  | .takeDirty => some (⟨y.state.takeDirty, y.phase⟩, .dirty y.state.dirty)

/-- A run: the events in the host's order (R9, R254). -/
def System.run (y : System) : List Event → Option System
  | [] => some y
  | e :: es =>
    match y.event e with
    | none => none
    | some (z, _) => System.run z es

/-- The launch state of a ROM image: the reset state with the image loaded and the keys as the host has set them
(R254); `none` for an image that is too large. -/
def State.launch (s : State) (rom : List Byte) : Option State := s.resetEvent.load rom

end Sys2Proof.Machine
end

