-- ==== Sys2Proof/Safety.lean ====
section
/-!
DEFINITION. What claims are stated in: a safe run (R223: a halted state is never the end of a successful run), the
finished state (R261), the invariant of the machine (R26, R27, R33, and the canonical form of memory), and the
vocabulary of frames, what an instruction leaves unchanged.
-/

namespace Sys2Proof.Machine

/-- No fault has happened since the last reset (R223). -/
def State.running (s : State) : Prop := s.halted = false

/-- The end of a run by the spec's convention: not halted, and at `pc` a jump to itself (R261, D23). -/
def State.finished (s : State) : Prop := ∃ nnn, s.fetch = .run (.jp nnn) ∧ zextNNN nnn = s.pc

/-- The fault record is all zero until a fault, and holds a cause after one (R33, R210). -/
def State.recordOk (s : State) : Prop :=
  (s.halted = false → s.cause = 0 ∧ s.fpc = 0 ∧ s.finfo = 0) ∧ (s.halted = true → s.cause ≠ 0 ∧ s.fpc = s.pc)

/-- The invariant of the machine. -/
structure State.Inv (s : State) : Prop where
  /-- Memory is in canonical form, every listed address below 4096 (R50). -/
  mem_wf : s.mem.wf
  /-- `pc` never passes V0 + NNN's greatest value, 4350; so it never wraps (R26, D32). -/
  pc_le : s.pc.toNat ≤ 4350
  /-- A live stack entry is a value a call pushed: the address after the call, at most 4096 (R26, R27). -/
  stack_le : ∀ j : Fin 16, j.val < s.sp.val → (s.stack[j.val]).toNat ≤ 4096
  /-- The fault record is consistent, and `fpc` is the address of the instruction that faulted (R33, R221). -/
  record : s.recordOk

/-! ## Sprites -/

/-- Whether the sprite of `n` rows at I, drawn at column `x` and row `y`, has a 1 bit that lands on the grid's pixel
(r, c): sprite row j lands on grid row (y + j) mod 32 and sprite column k on grid column (x + k) mod 64 (R171, R230). -/
def State.spriteOn (s : State) (x y : Byte) (n : Nat) (r : Fin 32) (c : Fin 64) : Prop :=
  ∃ j k : Nat, j < n ∧ k < 8 ∧ (y.toNat + j) % 32 = r.val ∧ (x.toNat + k) % 64 = c.val ∧
    spriteBit (s.mem.read (s.i.toNat + j)) k = true

/-! ## Frames -/

/-- The parts of the state other than the general registers and the bytes of memory. -/
inductive Part where
  | index
  | pc
  | stack
  | delayTimer
  | soundTimer
  | record
  | display
  | keys
  | draws
  deriving DecidableEq, Repr

/-- A part is the same in both states. -/
def Part.Same (s t : State) : Part → Prop
  | .index => t.i = s.i
  | .pc => t.pc = s.pc
  | .stack => t.stack = s.stack ∧ t.sp = s.sp
  | .delayTimer => t.dt = s.dt
  | .soundTimer => t.st = s.st
  | .record => t.halted = s.halted ∧ t.cause = s.cause ∧ t.fpc = s.fpc ∧ t.finfo = s.finfo
  | .display => t.grid = s.grid ∧ t.dirty = s.dirty
  | .keys => t.keys = s.keys
  | .draws => t.draws = s.draws

/-- The frame of an instruction: from `s` to `t`, every register not in `regs`, every part not in `parts`, and every
byte of memory outside the `bytes.2` bytes from `bytes.1` is unchanged. -/
structure Frame (s t : State) (regs : List RegId) (parts : List Part) (bytes : Nat × Nat := (0, 0)) : Prop where
  regs_same : ∀ x, x ∉ regs → t.reg x = s.reg x
  parts_same : ∀ p, p ∉ parts → p.Same s t
  mem_same : ∀ a, ¬ (bytes.1 ≤ a ∧ a < bytes.1 + bytes.2) → t.mem.read a = s.mem.read a

/-- A fault was taken (R220): nothing changed but the fault record, which holds the cause code, the address of the
instruction and the information. -/
structure FaultTaken (s t : State) (code : Fin 6) (info : Word) : Prop where
  frame : Frame s t [] [.record]
  mem_eq : t.mem = s.mem
  halted : t.halted = true
  cause : t.cause = code
  fpc : t.fpc = s.pc
  finfo : t.finfo = info

/-! ## What each instruction may do -/

/-- The registers V0, ..., VX (R154, R155). -/
def regsUpTo (x : RegId) : List RegId := (List.range (x.toNat + 1)).map (BitVec.ofNat 4)

/-- The cause code of the one fault an instruction can raise when it executes, if it can raise one (R219). -/
def faultCode : Instr → Option (Fin 6)
  | .call _ => some 2
  | .ret => some 3
  | .drw _ _ _ | .ldBcd _ | .stRegs _ | .ldRegs _ => some 4
  | .skp _ | .sknp _ => some 5
  | .cls | .jp _ | .seImm _ _ | .sneImm _ _ | .seReg _ _ | .ldImm _ _ | .addImm _ _ | .ldReg _ _ | .orReg _ _
  | .andReg _ _ | .xorReg _ _ | .addReg _ _ | .subReg _ _ | .shr _ _ | .subnReg _ _ | .shl _ _ | .sneReg _ _
  | .ldI _ | .jpV0 _ | .rnd _ _ | .ldFromDt _ | .ldKey _ | .ldDt _ | .ldSt _ | .addI _ | .ldFont _ => none

/-- How many bytes from I an instruction accesses; a fault needs at least one (R156, R171). -/
def bytesAtI : Instr → Nat
  | .drw _ _ n => n.toNat
  | .ldBcd _ => 3
  | .stRegs x | .ldRegs x => x.toNat + 1
  | .cls | .ret | .jp _ | .call _ | .seImm _ _ | .sneImm _ _ | .seReg _ _ | .ldImm _ _ | .addImm _ _ | .ldReg _ _
  | .orReg _ _ | .andReg _ _ | .xorReg _ _ | .addReg _ _ | .subReg _ _ | .shr _ _ | .subnReg _ _ | .shl _ _
  | .sneReg _ _ | .ldI _ | .jpV0 _ | .rnd _ _ | .skp _ | .sknp _ | .ldFromDt _ | .ldKey _ | .ldDt _ | .ldSt _
  | .addI _ | .ldFont _ => 0

/-- The registers an instruction can write: its destination, and VF where it writes a flag (R21, R22). -/
def destinations : Instr → List RegId
  | .ldImm x _ | .addImm x _ | .ldReg x _ | .orReg x _ | .andReg x _ | .xorReg x _ | .rnd x _ | .ldFromDt x
  | .ldKey x => [x]
  | .addReg x _ | .subReg x _ | .shr x _ | .subnReg x _ | .shl x _ => [x, vf]
  | .drw _ _ _ => [vf]
  | .ldRegs x => regsUpTo x
  | .cls | .ret | .jp _ | .call _ | .seImm _ _ | .sneImm _ _ | .seReg _ _ | .sneReg _ _ | .ldI _ | .jpV0 _ | .skp _
  | .sknp _ | .ldDt _ | .ldSt _ | .addI _ | .ldFont _ | .ldBcd _ | .stRegs _ => []

/-- The instructions that leave `pc` anywhere but 2 further on when they do not fault (R26). -/
def isControl : Instr → Bool
  | .ret | .jp _ | .call _ | .seImm _ _ | .sneImm _ _ | .seReg _ _ | .sneReg _ _ | .jpV0 _ | .skp _ | .sknp _
  | .ldKey _ => true
  | .cls | .ldImm _ _ | .addImm _ _ | .ldReg _ _ | .orReg _ _ | .andReg _ _ | .xorReg _ _ | .addReg _ _
  | .subReg _ _ | .shr _ _ | .subnReg _ _ | .shl _ _ | .ldI _ | .rnd _ _ | .drw _ _ _ | .ldFromDt _ | .ldDt _
  | .ldSt _ | .addI _ | .ldFont _ | .ldBcd _ | .stRegs _ | .ldRegs _ => false

end Sys2Proof.Machine
end

