-- ==== Sys2Proof/Certificates/Slice0/Obligations.lean ====
section
/-!
DEFINITION. The statements for the provers. Each docstring names the rule of spec/ a statement formalises; where a
clause rests on a decision or an inference the spec marks as its own, the docstring says so.
-/

open Sys2Proof Sys2Proof.Machine

/-! ## Encoding -/

/-- Decoding the bytes of any instruction gives that instruction and leaves the bytes after it (formats of R82, table
of R85, algorithm of R84): no bit of an operand is dropped. -/
def Obligations.DecodeInvertsEncode : Prop :=
  ∀ (i : Instr) (rest : List Byte), decode (encodeBytes i ++ rest) = .instr i rest

/-- Where a word decodes, encoding the instruction gives the word back: every word has one meaning (R85). -/
def Obligations.EncodeInvertsDecode : Prop :=
  ∀ (op : Word) (i : Instr), decodeWord op = some i → encode i = op

/-- The decoder of R84 and the match and mask table of R85 agree: a word decodes iff some row selects it, and it
decodes to the instruction of a row that selects it. The strict patterns are the spec's decision D5 (R86). -/
def Obligations.DecoderFollowsTable : Prop :=
  (∀ op : Word, (decodeWord op).isSome = true ↔ op.wellFormed = true) ∧
  ∀ (op : Word) (i : Instr), decodeWord op = some i →
    ∃ r ∈ opcodeTable, r.mnemonic = i.mnemonic ∧ r.selects op = true

/-- "The rows are pairwise disjoint" (R85): no word is selected by two rows of the table. -/
def Obligations.TableRowsDisjoint : Prop :=
  opcodeTable.Pairwise fun r r' => ∀ op : Word, ¬ (r.selects op = true ∧ r'.selects op = true)

/-- Eight words written out from the encodings of R82 and R85 and three unknown ones (R87), with their bytes in memory
order; and one byte alone, too short for any instruction (R80). That 0x5121 is unknown is the spec's decision D5
(R86, log 11). -/
def Obligations.SpecWordsDecode : Prop :=
  decode [0x00, 0xE0] = .instr .cls [] ∧ decode [0x1A, 0xBC] = .instr (.jp 0xABC) [] ∧
  decode [0x3A, 0x42] = .instr (.seImm 0xA 0x42) [] ∧ decode [0x5A, 0xB0] = .instr (.seReg 0xA 0xB) [] ∧
  decode [0x8A, 0xB6] = .instr (.shr 0xA 0xB) [] ∧ decode [0xD1, 0x2F] = .instr (.drw 0x1 0x2 0xF) [] ∧
  decode [0xEF, 0x9E] = .instr (.skp 0xF) [] ∧ decode [0xFF, 0x55] = .instr (.stRegs 0xF) [] ∧
  decode [0x00, 0x00] = .unknownOpcode 0x0000 ∧ decode [0x51, 0x21] = .unknownOpcode 0x5121 ∧
  decode [0x81, 0x2F] = .unknownOpcode 0x812F ∧ decode [0xFF] = .truncated

/-! ## The step -/

/-- When the bytes at `pc` decode to an instruction, a step of a core that is not halted is the execution of that
instruction, with nothing added around it (R10). -/
def Obligations.StepRunsDecodedInstruction : Prop :=
  ∀ (s : State) (i : Instr) (rest : List Byte), s.halted = false → s.pc.toNat + 1 < 4096 →
    decode [s.mem.read s.pc.toNat, s.mem.read (s.pc.toNat + 1)] = .instr i rest → step s = exec i s

/-- A fetched word that is no instruction: cause 1, the address of the word, the word itself, and nothing else
changes (R211). The number of the cause is the spec's decision D8. -/
def Obligations.UnknownOpcodeFaults : Prop :=
  ∀ s : State, s.halted = false → s.pc.toNat + 1 < 4096 → decodeWord (s.mem.readWord s.pc.toNat) = none →
    ∃ t, step s = .next t ∧ FaultTaken s t 1 (s.mem.readWord s.pc.toNat)

/-- A fetch that reaches past the last byte: cause 4 with the lowest bad address (R214 (a)); that it does not wrap and
which address is reported are the spec's decisions D7, D29 and D32. -/
def Obligations.FetchOutOfRangeFaults : Prop :=
  ∀ s : State, s.halted = false → 4095 ≤ s.pc.toNat →
    ∃ t, step s = .next t ∧ FaultTaken s t 4 (if 4096 ≤ s.pc.toNat then s.pc else 0x1000)

/-- A step of a halted core changes nothing, fault record included (R223; freezing the core is the spec's decision
D19). -/
def Obligations.HaltedStepChangesNothing : Prop :=
  ∀ s : State, s.halted = true → step s = .next s

/-- Every step ends in a next state: the core never stalls, and no instruction is left without an effect (R259). That
a fault is a next state is the model's reading of R220, log 3. -/
def Obligations.EveryStepAnswersNext : Prop :=
  ∀ s : State, ∃ t, step s = .next t

/-- The word the host places is the one the very next step runs, from any state. The placement is the model's own,
log 14. -/
def Obligations.PlacedWordRuns : Prop :=
  ∀ (s : State) (w : Nat) (i : Instr), decodeTableWord 16 w = some i →
    step (s.withFetchWord 16 w) = exec i (s.withFetchWord 16 w)

/-! ## Faults -/

/-- Fault entry (R220): a step that faults changes nothing but the fault record, which holds the address of the
instruction and one of the causes of R210 with its information, and the condition of that cause held (R211 to R215):
cause 4 in its two forms, the fetch and the bytes from I, with the lowest bad address. The numbers of the causes are the
spec's decision D8, fault 5 its decision D11, the address reported its decision D29, the unwrapped addresses D7, the
precision D9 (logs 9, 11 and 12). -/
def Obligations.FaultEntryChangesOnlyTheRecord : Prop :=
  ∀ s t : State, s.halted = false → step s = .next t → t.halted = true →
    ∃ code info, FaultTaken s t code info ∧
      ((code = 1 ∧ info = s.mem.readWord s.pc.toNat ∧ s.pc.toNat + 1 < 4096 ∧
          decodeWord (s.mem.readWord s.pc.toNat) = none) ∨
       (code = 2 ∧ info = 16 ∧ s.sp.val = 16 ∧ ∃ nnn, s.fetch = .run (.call nnn)) ∨
       (code = 3 ∧ info = 0 ∧ s.sp.val = 0 ∧ s.fetch = .run .ret) ∨
       (code = 4 ∧ info = (if 4096 ≤ s.pc.toNat then s.pc else 0x1000) ∧ 4095 ≤ s.pc.toNat) ∨
       (code = 4 ∧ info = (if 4096 ≤ s.i.toNat then s.i else 0x1000) ∧
          ∃ i, s.fetch = .run i ∧ bytesAtI i ≠ 0 ∧ 4096 < s.i.toNat + bytesAtI i) ∨
       (code = 5 ∧ ∃ x, info = (s.reg x).setWidth 16 ∧ 15 < (s.reg x).toNat ∧
          (s.fetch = .run (.skp x) ∨ s.fetch = .run (.sknp x))))

/-- Which fault an instruction can raise when it executes: `2NNN` only stack overflow, `00EE` only stack underflow,
`DXYN`, `FX33`, `FX55`, `FX65` only memory out of range, `EX9E`, `EXA1` only key index out of range, all others none
(R219; the codes are the spec's decision D8). -/
def Obligations.EachInstructionRaisesOnlyItsFault : Prop :=
  ∀ (i : Instr) (s t : State), s.halted = false → exec i s = .next t → t.halted = true →
    faultCode i = some t.cause

/-! ## Control transfer -/

/-- `3XNN` and `4XNN` (R104, R105): skip by 4 on the taken branch, else 2; nothing else changes. -/
def Obligations.SkipOnImmediate : Prop :=
  ∀ (x : RegId) (nn : Byte) (s : State),
    (∃ t, exec (.seImm x nn) s = .next t ∧
      t.pc = (if s.reg x = nn then s.pc + 4 else s.pc + 2) ∧ Frame s t [] [.pc]) ∧
    (∃ t, exec (.sneImm x nn) s = .next t ∧
      t.pc = (if s.reg x ≠ nn then s.pc + 4 else s.pc + 2) ∧ Frame s t [] [.pc])

/-- `5XY0` and `9XY0` (R106, R107). -/
def Obligations.SkipOnRegisters : Prop :=
  ∀ (x y : RegId) (s : State),
    (∃ t, exec (.seReg x y) s = .next t ∧
      t.pc = (if s.reg x = s.reg y then s.pc + 4 else s.pc + 2) ∧ Frame s t [] [.pc]) ∧
    (∃ t, exec (.sneReg x y) s = .next t ∧
      t.pc = (if s.reg x ≠ s.reg y then s.pc + 4 else s.pc + 2) ∧ Frame s t [] [.pc])

/-- `1NNN` (R102): `pc` is NNN, zero-extended, whatever NNN is; nothing else changes. -/
def Obligations.JumpSetsPc : Prop :=
  ∀ (nnn : Addr12) (s : State), ∃ t, exec (.jp nnn) s = .next t ∧ t.pc.toNat = nnn.toNat ∧ Frame s t [] [.pc]

/-- `BNNN` (R108): `pc` is V0 + NNN, not reduced to 12 bits (the spec's decision D27); nothing else changes. -/
def Obligations.JumpV0AddsOffset : Prop :=
  ∀ (nnn : Addr12) (s : State), ∃ t, exec (.jpV0 nnn) s = .next t ∧
    t.pc.toNat = (s.reg 0).toNat + nnn.toNat ∧ Frame s t [] [.pc]

/-- `2NNN` with a free entry (R103): the address of the next instruction is pushed (the spec's decision D10, conflict
C1), the other entries are unchanged, and `pc` is NNN. -/
def Obligations.CallPushesReturnAddress : Prop :=
  ∀ (nnn : Addr12) (s : State) (h : s.sp.val < 16), ∃ t, exec (.call nnn) s = .next t ∧
    t.sp.val = s.sp.val + 1 ∧ t.stack[s.sp.val] = s.pc + 2 ∧
    (∀ j : Fin 16, j.val ≠ s.sp.val → t.stack[j.val] = s.stack[j.val]) ∧
    t.pc.toNat = nnn.toNat ∧ Frame s t [] [.pc, .stack]

/-- `2NNN` with all 16 entries in use (R212): cause 2 (a number of the spec's decision D8), `finfo` 16, and nothing is
pushed. -/
def Obligations.CallOverflowFaults : Prop :=
  ∀ (nnn : Addr12) (s : State), s.sp.val = 16 → ∃ t, exec (.call nnn) s = .next t ∧ FaultTaken s t 2 16

/-- `00EE` (R101): with a live entry, `sp` goes down by 1 and `pc` is the popped entry as it is, the array untouched;
with none, cause 3, `finfo` 0, and nothing else changes (R213). That the popped entry stays is the spec's decision
D30, the number of the cause its decision D8. -/
def Obligations.ReturnPopsEntry : Prop :=
  (∀ (s : State) (h : 0 < s.sp.val), ∃ t, exec .ret s = .next t ∧
    t.sp.val = s.sp.val - 1 ∧ t.pc = s.stack[s.sp.val - 1]'(by have := s.sp.isLt; omega) ∧ t.stack = s.stack ∧
    Frame s t [] [.pc, .stack]) ∧
  (∀ s : State, s.sp.val = 0 → ∃ t, exec .ret s = .next t ∧ FaultTaken s t 3 0)

/-- A call and, whatever happened meanwhile but to the stack, its return: `pc` is 2 past the call site and the stack
pointer is back (the round trip quoted in R101; what the entry holds is the spec's decision D10). -/
def Obligations.CallThenReturnRoundTrip : Prop :=
  ∀ (nnn : Addr12) (s : State), s.sp.val < 16 → ∃ t, exec (.call nnn) s = .next t ∧
    ∀ t' : State, t'.stack = t.stack → t'.sp = t.sp →
      ∃ u, exec .ret t' = .next u ∧ u.pc = s.pc + 2 ∧ u.sp = s.sp

/-! ## Registers and arithmetic -/

/-- `6XNN` and `8XY0` (R120, R122): VX is NN, or VY as it was; nothing else but `pc` changes. That `8XY0` leaves VF
alone where X is not F is the spec's decision D3 (R22, log 7). -/
def Obligations.LoadAndCopyRegister : Prop :=
  (∀ (x : RegId) (nn : Byte) (s : State), ∃ t, exec (.ldImm x nn) s = .next t ∧
    t.reg x = nn ∧ t.pc = s.pc + 2 ∧ Frame s t [x] [.pc]) ∧
  (∀ (x y : RegId) (s : State), ∃ t, exec (.ldReg x y) s = .next t ∧
    t.reg x = s.reg y ∧ t.pc = s.pc + 2 ∧ Frame s t [x] [.pc])

/-- `7XNN` (R121): the sum modulo 256, and no flag: VF changes only as the destination. -/
def Obligations.AddImmediateWraps : Prop :=
  ∀ (x : RegId) (nn : Byte) (s : State), ∃ t, exec (.addImm x nn) s = .next t ∧
    (t.reg x).toNat = ((s.reg x).toNat + nn.toNat) % 256 ∧ t.pc = s.pc + 2 ∧ Frame s t [x] [.pc]

/-- `8XY1`, `8XY2`, `8XY3` (R123, R124, R125), bit by bit; VF is left alone unless it is VX (the spec's decision
D3). -/
def Obligations.LogicBitwise : Prop :=
  ∀ (x y : RegId) (s : State),
    (∃ t, exec (.orReg x y) s = .next t ∧
      (∀ k, (t.reg x).getLsbD k = ((s.reg x).getLsbD k || (s.reg y).getLsbD k)) ∧ t.pc = s.pc + 2 ∧
      Frame s t [x] [.pc]) ∧
    (∃ t, exec (.andReg x y) s = .next t ∧
      (∀ k, (t.reg x).getLsbD k = ((s.reg x).getLsbD k && (s.reg y).getLsbD k)) ∧ t.pc = s.pc + 2 ∧
      Frame s t [x] [.pc]) ∧
    (∃ t, exec (.xorReg x y) s = .next t ∧
      (∀ k, (t.reg x).getLsbD k = ((s.reg x).getLsbD k ^^ (s.reg y).getLsbD k)) ∧ t.pc = s.pc + 2 ∧
      Frame s t [x] [.pc])

/-- `8XY4` (R126): the sum modulo 256 in VX, unless X is F; the carry in VF, for every X and Y
(the source's own sentence, quoted in R126, has no exception for X = F). -/
def Obligations.AddSetsCarry : Prop :=
  ∀ (x y : RegId) (s : State), ∃ t, exec (.addReg x y) s = .next t ∧
    (x ≠ 0xF → (t.reg x).toNat = ((s.reg x).toNat + (s.reg y).toNat) % 256) ∧
    t.reg 0xF = (if (s.reg x).toNat + (s.reg y).toNat > 255 then 1 else 0) ∧
    t.pc = s.pc + 2 ∧ Frame s t [x, 0xF] [.pc]

/-- `8XY5` and `8XY7` (R127, R129): the difference modulo 256 in VX, unless X is F; in VF 1 iff there is no borrow.
The borrow convention is the spec's decision D1 and the order of the writes D2. -/
def Obligations.SubtractSetsNoBorrow : Prop :=
  ∀ (x y : RegId) (s : State),
    (∃ t, exec (.subReg x y) s = .next t ∧
      (x ≠ 0xF → (t.reg x).toNat = ((s.reg x).toNat + 256 - (s.reg y).toNat) % 256) ∧
      t.reg 0xF = (if (s.reg x).toNat ≥ (s.reg y).toNat then 1 else 0) ∧
      t.pc = s.pc + 2 ∧ Frame s t [x, 0xF] [.pc]) ∧
    (∃ t, exec (.subnReg x y) s = .next t ∧
      (x ≠ 0xF → (t.reg x).toNat = ((s.reg y).toNat + 256 - (s.reg x).toNat) % 256) ∧
      t.reg 0xF = (if (s.reg y).toNat ≥ (s.reg x).toNat then 1 else 0) ∧
      t.pc = s.pc + 2 ∧ Frame s t [x, 0xF] [.pc])

/-- `8XY6` and `8XYE` (R128, R130): VX shifted in place by one, unless X is F; in VF the bit shifted out; Y plays no
part. The order of the writes, which X = F shows, is the spec's decision D2; that VX is the operand is row D4, which
says the source settles it. -/
def Obligations.ShiftsByOne : Prop :=
  ∀ (x y : RegId) (s : State),
    (∃ t, exec (.shr x y) s = .next t ∧
      (x ≠ 0xF → (t.reg x).toNat = (s.reg x).toNat / 2) ∧
      (t.reg 0xF).toNat = (s.reg x).toNat % 2 ∧
      t.pc = s.pc + 2 ∧ Frame s t [x, 0xF] [.pc]) ∧
    (∃ t, exec (.shl x y) s = .next t ∧
      (x ≠ 0xF → (t.reg x).toNat = (s.reg x).toNat * 2 % 256) ∧
      (t.reg 0xF).toNat = (s.reg x).toNat / 128 ∧
      t.pc = s.pc + 2 ∧ Frame s t [x, 0xF] [.pc])

/-- `CXNN` (R131): VX is NN AND the next free byte, and one free byte is used up; the previous VX plays no part. The
byte is a free value (the spec's decision D14; log 2): the statement holds whatever it is. That VF is left alone where X
is not F is the spec's decision D3 (log 7). -/
def Obligations.RandomMasksFreeByte : Prop :=
  ∀ (x : RegId) (nn : Byte) (s : State), ∃ t, exec (.rnd x nn) s = .next t ∧
    t.reg x = nn &&& Config.randomByte s.draws ∧ (∀ k, nn.getLsbD k = false → (t.reg x).getLsbD k = false) ∧
    t.draws = s.draws + 1 ∧ t.pc = s.pc + 2 ∧ Frame s t [x] [.pc, .draws]

/-! ## Index register and memory -/

/-- `ANNN` (R150): I is NNN, zero-extended. -/
def Obligations.LoadIndexImmediate : Prop :=
  ∀ (nnn : Addr12) (s : State), ∃ t, exec (.ldI nnn) s = .next t ∧
    t.i.toNat = nnn.toNat ∧ t.pc = s.pc + 2 ∧ Frame s t [] [.index, .pc]

/-- `FX1E` and `FX29` (R151, R152): I + VX modulo 65536 with no flag (the spec's decision D6), and the whole VX times
5 (the spec's decision D28). -/
def Obligations.IndexArithmetic : Prop :=
  ∀ (x : RegId) (s : State),
    (∃ t, exec (.addI x) s = .next t ∧
      t.i.toNat = (s.i.toNat + (s.reg x).toNat) % 65536 ∧ t.pc = s.pc + 2 ∧ Frame s t [] [.index, .pc]) ∧
    (∃ t, exec (.ldFont x) s = .next t ∧
      t.i.toNat = (s.reg x).toNat * 5 ∧ t.pc = s.pc + 2 ∧ Frame s t [] [.index, .pc])

/-- `FX33` (R153): the three decimal digits of VX at I, I + 1, I + 2, and no other byte; or, when one of the three is
out of range, the fault, with nothing written. The fault's number, its precision and its address are the spec's
decisions D8, D9 and D29. -/
def Obligations.BcdStoresDigits : Prop :=
  ∀ (x : RegId) (s : State),
    (s.i.toNat + 2 < 4096 → ∃ t, exec (.ldBcd x) s = .next t ∧
      (t.mem.read s.i.toNat).toNat = (s.reg x).toNat / 100 ∧
      (t.mem.read (s.i.toNat + 1)).toNat = (s.reg x).toNat / 10 % 10 ∧
      (t.mem.read (s.i.toNat + 2)).toNat = (s.reg x).toNat % 10 ∧
      t.pc = s.pc + 2 ∧ Frame s t [] [.pc] (s.i.toNat, 3)) ∧
    (4096 ≤ s.i.toNat + 2 → ∃ t, exec (.ldBcd x) s = .next t ∧
      FaultTaken s t 4 (if 4096 ≤ s.i.toNat then s.i else 0x1000))

/-- `FX55` (R154): V0, ..., VX at I, ..., I + X, no other byte, and I moved past them; or the fault, with nothing
stored and I unchanged. The fault's number, its precision and its address are the spec's decisions D8, D9 and D29. -/
def Obligations.StoreRegistersSpills : Prop :=
  ∀ (x : RegId) (s : State),
    (s.i.toNat + x.toNat < 4096 → ∃ t, exec (.stRegs x) s = .next t ∧
      (∀ k : RegId, k.toNat ≤ x.toNat → t.mem.read (s.i.toNat + k.toNat) = s.reg k) ∧
      t.i.toNat = s.i.toNat + x.toNat + 1 ∧ t.pc = s.pc + 2 ∧
      Frame s t [] [.index, .pc] (s.i.toNat, x.toNat + 1)) ∧
    (4096 ≤ s.i.toNat + x.toNat → ∃ t, exec (.stRegs x) s = .next t ∧
      FaultTaken s t 4 (if 4096 ≤ s.i.toNat then s.i else 0x1000))

/-- `FX65` (R155): V0, ..., VX from I, ..., I + X, the registers above VX and all memory unchanged, and I moved past
the bytes; or the fault, with no register changed. The fault's number, its precision and its address are the spec's
decisions D8, D9 and D29. -/
def Obligations.LoadRegistersFills : Prop :=
  ∀ (x : RegId) (s : State),
    (s.i.toNat + x.toNat < 4096 → ∃ t, exec (.ldRegs x) s = .next t ∧
      (∀ k : RegId, k.toNat ≤ x.toNat → t.reg k = s.mem.read (s.i.toNat + k.toNat)) ∧
      t.i.toNat = s.i.toNat + x.toNat + 1 ∧ t.pc = s.pc + 2 ∧
      Frame s t (regsUpTo x) [.index, .pc]) ∧
    (4096 ≤ s.i.toNat + x.toNat → ∃ t, exec (.ldRegs x) s = .next t ∧
      FaultTaken s t 4 (if 4096 ≤ s.i.toNat then s.i else 0x1000))

/-- `FX55` followed by `FX65` for the same X, with I set back to the base and memory as the store left it, brings
V0, ..., VX back, and I ends X + 1 above the base (the round trip quoted in R155). -/
def Obligations.SpillThenFillRoundTrip : Prop :=
  ∀ (x : RegId) (s : State), s.i.toNat + x.toNat < 4096 → ∃ t, exec (.stRegs x) s = .next t ∧
    ∀ t' : State, t'.mem = t.mem → t'.i = s.i →
      ∃ u, exec (.ldRegs x) t' = .next u ∧ (∀ k : RegId, k.toNat ≤ x.toNat → u.reg k = s.reg k) ∧ u.i = t.i

/-- A store into the instruction stream is seen by the very next fetch (R63): an `FX55` that stores V0, V1 just after
itself is followed by the instruction those two bytes encode. -/
def Obligations.StoreIsSeenByNextFetch : Prop :=
  ∀ (x : RegId) (s : State) (j : Instr), s.halted = false → 1 ≤ x.toNat → s.i = s.pc + 2 →
    s.pc.toNat + 2 + x.toNat < 4096 → decode [s.reg 0, s.reg 1] = .instr j [] →
    ∃ t, exec (.stRegs x) s = .next t ∧ step t = exec j t

/-! ## Display -/

/-- `00E0` (R170): every pixel 0 and `dirty` 1, whatever they were; nothing else but `pc` changes. -/
def Obligations.ClearBlanksDisplay : Prop :=
  ∀ s : State, ∃ t, exec .cls s = .next t ∧ (∀ r c, t.grid.pixel r c = false) ∧ t.dirty = true ∧
    t.pc = s.pc + 2 ∧ Frame s t [] [.display, .pc]

/-- `DXYN` whose rows are in range, or that has none (R171): pixel by pixel an exclusive or with the sprite, wrapping;
VF is 1 iff a set pixel was turned off; `dirty` is set if a pixel changed and is never cleared; I is unchanged. The bit
order is the spec's decision D15 and N = 0 its decision D17. -/
def Obligations.DrawXorsSprite : Prop :=
  ∀ (x y : RegId) (n : Nibble) (s : State), n = 0 ∨ s.i.toNat + n.toNat ≤ 4096 →
    ∃ t, exec (.drw x y n) s = .next t ∧
      (∀ r c, (s.spriteOn (s.reg x) (s.reg y) n.toNat r c → t.grid.pixel r c = !s.grid.pixel r c) ∧
        (¬ s.spriteOn (s.reg x) (s.reg y) n.toNat r c → t.grid.pixel r c = s.grid.pixel r c)) ∧
      ((∃ r c, s.spriteOn (s.reg x) (s.reg y) n.toNat r c ∧ s.grid.pixel r c = true) → t.reg 0xF = 1) ∧
      ((¬ ∃ r c, s.spriteOn (s.reg x) (s.reg y) n.toNat r c ∧ s.grid.pixel r c = true) → t.reg 0xF = 0) ∧
      (t.dirty = true ↔ s.dirty = true ∨ ∃ r c, s.spriteOn (s.reg x) (s.reg y) n.toNat r c) ∧
      t.pc = s.pc + 2 ∧ Frame s t [0xF] [.display, .pc]

/-- `DXYN` with a row out of range (R171, R214 (d)): the fault; no pixel, not `dirty`, not VF changes. Which address is
reported is the spec's decision D29, its precision D9 and its number D8. -/
def Obligations.DrawOutOfRangeFaults : Prop :=
  ∀ (x y : RegId) (n : Nibble) (s : State), n ≠ 0 → 4096 < s.i.toNat + n.toNat →
    ∃ t, exec (.drw x y n) s = .next t ∧ FaultTaken s t 4 (if 4096 ≤ s.i.toNat then s.i else 0x1000)

/-- Drawing the same sprite at the same place twice restores the grid; on a blank grid the first draw reports no
collision, and the second reports one iff the sprite has a 1 bit (the property quoted in R171). That N = 0 completes for
every I, and with VF 0, is the spec's decision D17 (log 8). -/
def Obligations.DrawTwiceRestoresGrid : Prop :=
  ∀ (x y : RegId) (n : Nibble) (s : State), n = 0 ∨ s.i.toNat + n.toNat ≤ 4096 →
    ∃ t, exec (.drw x y n) s = .next t ∧
      ((∀ r c, s.grid.pixel r c = false) → t.reg 0xF = 0) ∧
      ∀ t' : State, t'.grid = t.grid → t'.mem = s.mem → t'.i = s.i → t'.reg x = s.reg x → t'.reg y = s.reg y →
        ∃ u, exec (.drw x y n) t' = .next u ∧ u.grid = s.grid ∧
          ((∀ r c, s.grid.pixel r c = false) →
            (u.reg 0xF = 1 ↔ ∃ r c, s.spriteOn (s.reg x) (s.reg y) n.toNat r c))

/-! ## Keypad and timers -/

/-- `EX9E` and `EXA1` with a key index (R190, R191): skip iff the key is pressed, or is not; for a given state exactly
one of the two skips. That the whole of VX is the index is part of the spec's decision D11. -/
def Obligations.SkipOnKey : Prop :=
  ∀ (x : RegId) (k : KeyId) (s : State), (s.reg x).toNat = k.toNat →
    (∃ t, exec (.skp x) s = .next t ∧
      t.pc = (if s.key k = true then s.pc + 4 else s.pc + 2) ∧ Frame s t [] [.pc]) ∧
    (∃ t, exec (.sknp x) s = .next t ∧
      t.pc = (if s.key k = true then s.pc + 2 else s.pc + 4) ∧ Frame s t [] [.pc])

/-- `EX9E` and `EXA1` with VX above 15: cause 5 and VX (R215, the spec's decision D11). -/
def Obligations.KeyIndexFaults : Prop :=
  ∀ (x : RegId) (s : State), 15 < (s.reg x).toNat →
    (∃ t, exec (.skp x) s = .next t ∧ FaultTaken s t 5 ((s.reg x).setWidth 16)) ∧
    (∃ t, exec (.sknp x) s = .next t ∧ FaultTaken s t 5 ((s.reg x).setWidth 16))

/-- `FX0A` (R192): with a key pressed, VX is the index of some pressed key and `pc` moves on; with none pressed,
nothing changes at all. Level sensitivity is the spec's decision D12; the choice among several keys is free (log 6),
and one free value is used up by it. -/
def Obligations.WaitForKey : Prop :=
  ∀ (x : RegId) (s : State),
    ((∃ k, s.key k = true) → ∃ t p, exec (.ldKey x) s = .next t ∧ s.key p = true ∧
      (t.reg x).toNat = p.toNat ∧ t.draws = s.draws + 1 ∧ t.pc = s.pc + 2 ∧ Frame s t [x] [.pc, .draws]) ∧
    ((∀ k, s.key k = false) → exec (.ldKey x) s = .next s)

/-- `FX07`, `FX15`, `FX18` (R193, R194, R195): read DT, write DT, write ST, each leaving the other timer alone. Which
opcode does which is the spec's decision D13, from general knowledge. -/
def Obligations.TimerMoves : Prop :=
  ∀ (x : RegId) (s : State),
    (∃ t, exec (.ldFromDt x) s = .next t ∧ t.reg x = s.dt ∧ t.pc = s.pc + 2 ∧ Frame s t [x] [.pc]) ∧
    (∃ t, exec (.ldDt x) s = .next t ∧ t.dt = s.reg x ∧ t.pc = s.pc + 2 ∧ Frame s t [] [.pc, .delayTimer]) ∧
    (∃ t, exec (.ldSt x) s = .next t ∧ t.st = s.reg x ∧ t.pc = s.pc + 2 ∧ Frame s t [] [.pc, .soundTimer])

/-! ## Host events -/

/-- `Tick` (R226): halted, nothing changes and no beep; otherwise each timer goes down by exactly 1 while above 0,
nothing else changes, and the beep edge comes with ST going from 1 to 0. The freeze is the spec's decision D19 and the
edge its decision D18. -/
def Obligations.TickCountsDown : Prop :=
  ∀ y : System, ∃ z edge, y.event .tick = some (z, .beep edge) ∧
    (y.state.halted = true → z.state = y.state ∧ edge = false) ∧
    (y.state.halted = false →
      z.state.dt.toNat = y.state.dt.toNat - 1 ∧ z.state.st.toNat = y.state.st.toNat - 1 ∧
      (edge = true ↔ y.state.st.toNat = 1) ∧ Frame y.state z.state [] [.delayTimer, .soundTimer])

/-- `TakeDirty` (R231): answers the old flag, clears it, and changes nothing else. -/
def Obligations.TakeDirtyAnswersAndClears : Prop :=
  ∀ y : System, ∃ z, y.event .takeDirty = some (z, .dirty y.state.dirty) ∧
    z.state.dirty = false ∧ z.state.grid = y.state.grid ∧ Frame y.state z.state [] [.display]

/-- `KeySet(k, b)` (R233): one key's flag, and nothing else. -/
def Obligations.KeySetChangesOneKey : Prop :=
  ∀ (y : System) (k : KeyId) (b : Bool), ∃ z a, y.event (.keySet k b) = some (z, a) ∧
    (∀ j, z.state.key j = if j = k then b else y.state.key j) ∧ Frame y.state z.state [] [.keys]

/-- `Load(rom)` in the boot phase (R216): more than 3584 bytes are refused and change nothing; up to 3584 bytes are
accepted and stand in memory from 0x200, byte k of the image at 0x200 + k, and nothing else changes. -/
def Obligations.LoadPlacesRomOrRefuses : Prop :=
  ∀ (y : System) (rom : List Byte), y.phase = .boot →
    (3584 < rom.length → y.event (.load rom) = some (y, .romTooLarge)) ∧
    (rom.length ≤ 3584 → ∃ z, y.event (.load rom) = some (z, .loaded) ∧
      (∀ k (h : k < rom.length), z.state.mem.read (0x200 + k) = rom[k]) ∧
      Frame y.state z.state [] [] (0x200, rom.length))

/-- The boot phase (R253): a reset opens it, a step or a tick closes it, the other events leave it, and once closed no
`Load` has a step (the spec's decision D21). -/
def Obligations.LoadOnlyInBootPhase : Prop :=
  (∀ (y : System) (rom : List Byte), y.phase = .running → y.event (.load rom) = none) ∧
  (∀ (y z : System) (e : Event) (a : Answer), y.event e = some (z, a) →
    z.phase = match e with
      | .reset => .boot
      | .step | .tick => .running
      | .load _ | .keySet _ _ | .takeDirty => y.phase)

/-! ## Reset -/

/-- What the state after reset holds (R37): every register, I, `sp`, every stack entry, both timers, the fault record
and every pixel 0, `dirty` 0, `pc` 0x200, 0x00 in memory from 0x050 on. (The display's values are the spec's decision
D20; nothing is said here of the font's bytes or of the keys.) -/
def Obligations.ResetValues : Prop :=
  (∀ x, State.reset.reg x = 0) ∧ State.reset.i = 0 ∧ State.reset.pc = 0x200 ∧ State.reset.sp = 0 ∧
  (∀ j : Fin 16, State.reset.stack[j.val] = 0) ∧ State.reset.dt = 0 ∧ State.reset.st = 0 ∧
  State.reset.halted = false ∧ State.reset.cause = 0 ∧ State.reset.fpc = 0 ∧ State.reset.finfo = 0 ∧
  (∀ r c, State.reset.grid.pixel r c = false) ∧ State.reset.dirty = false ∧
  (∀ a, 0x050 ≤ a → State.reset.mem.read a = 0)

/-- The `Reset` event from any state, halted or not (R250): every piece of state as after reset, the keys untouched
(the spec's decision D20), and the boot phase begins. -/
def Obligations.ResetEventRestores : Prop :=
  ∀ y : System, ∃ z a, y.event .reset = some (z, a) ∧ z.phase = .boot ∧ z.state.keys = y.state.keys ∧
    (∀ b, z.state.mem.read b = State.reset.mem.read b) ∧ (∀ x, z.state.reg x = State.reset.reg x) ∧
    ∀ p : Part, p ≠ .keys → p ≠ .draws → p.Same State.reset z.state

/-! ## Invariants -/

/-- The state after reset meets the invariant of the machine. -/
def Obligations.ResetMeetsInvariant : Prop := State.reset.Inv

/-- Every step keeps the invariant of the machine: canonical memory below 4096 (R50), `pc` at most 4350 (R26), live
stack entries at most 4096 (R26, R27), a consistent fault record (R33). -/
def Obligations.StepKeepsInvariant : Prop :=
  ∀ s t : State, s.Inv → step s = .next t → t.Inv

/-- Every event of the host keeps the invariant of the machine, whatever the phase and from every state that meets it:
`Reset`, `Load`, `Step`, `Tick`, `KeySet` and `TakeDirty` (R9, R26, R27, R33, R256). So every run does, in every
order of the events (`System.run_keeps`). -/
def Obligations.EveryEventKeepsInvariant : Prop :=
  ∀ (y z : System) (e : Event) (a : Answer), y.state.Inv → y.event e = some (z, a) → z.state.Inv

/-! ## Rules of the whole machine -/

/-- An instruction writes no general register but its destination and, where R22 gives it a flag, VF; in particular no
instruction outside R22's table changes VF but as its destination (part of it is the spec's decision D3). -/
def Obligations.OnlyDestinationsChange : Prop :=
  ∀ (i : Instr) (s t : State), exec i s = .next t → ∀ x, x ∉ destinations i → t.reg x = s.reg x

/-- A step changes DT only by `FX15` and ST only by `FX18`, to the register's value: it never decrements a timer
(R28). -/
def Obligations.StepNeverDecrementsTimers : Prop :=
  ∀ s t : State, step s = .next t →
    (t.dt = s.dt ∨ ∃ x, s.fetch = .run (.ldDt x) ∧ t.dt = s.reg x) ∧
    (t.st = s.st ∨ ∃ x, s.fetch = .run (.ldSt x) ∧ t.st = s.reg x)

/-- No step changes a key flag: they are "read-only from the CPU's perspective" (R31). -/
def Obligations.StepNeverChangesKeys : Prop :=
  ∀ s t : State, step s = .next t → t.keys = s.keys

/-- A step changes memory only by `FX33` and `FX55` (R20, R57, R58). -/
def Obligations.OnlyStoresWriteMemory : Prop :=
  ∀ s t : State, step s = .next t →
    t.mem = s.mem ∨ ∃ x, s.fetch = .run (.ldBcd x) ∨ s.fetch = .run (.stRegs x)

/-- A step changes the Display only by `00E0` and `DXYN` (R32). -/
def Obligations.OnlyDisplayInstructionsDraw : Prop :=
  ∀ s t : State, step s = .next t →
    (t.grid = s.grid ∧ t.dirty = s.dirty) ∨ s.fetch = .run .cls ∨ ∃ x y n, s.fetch = .run (.drw x y n)

/-- Where an instruction leaves `pc` (R26): an instruction that faults leaves it; one that does not, and is no
control transfer, skip or key wait, leaves it 2 further on. -/
def Obligations.PcAfterInstruction : Prop :=
  ∀ (i : Instr) (s t : State), s.halted = false → exec i s = .next t →
    (t.halted = true → t.pc = s.pc) ∧ (t.halted = false → isControl i = false → t.pc = s.pc + 2)

/-- The finished state is a fixed point of `Step` (R261; the convention is the spec's decision D23). -/
def Obligations.SelfJumpIsFixedPoint : Prop :=
  ∀ s : State, s.finished → step s = .next s
end

