-- ==== Sys2Proof/Laws/Decode.lean ====
section
/-!
SUPPORT. The bits of a word that the encoder packs, its fields (R81, R82), and what the masks of R85 leave of it.
-/

namespace Sys2Proof

/-! ### Bits of a packed word -/

theorem getLsbD_packNNN (f : Nibble) (n : Addr12) (k : Nat) :
    (packNNN f n).getLsbD k = if k < 12 then n.getLsbD k else f.getLsbD (k - 12) :=
  BitVec.getLsbD_append

theorem getLsbD_packXNN (f : Nibble) (x : RegId) (n : Byte) (k : Nat) :
    (packXNN f x n).getLsbD k =
      if k < 12 then (if k < 8 then n.getLsbD k else x.getLsbD (k - 8)) else f.getLsbD (k - 12) := by
  refine (BitVec.getLsbD_append (x := f) (y := x ++ n)).trans ?_
  rw [BitVec.getLsbD_append]

theorem getLsbD_packXYN (f : Nibble) (x y : RegId) (n : Nibble) (k : Nat) :
    (packXYN f x y n).getLsbD k =
      if k < 12 then
        (if k < 8 then (if k < 4 then n.getLsbD k else y.getLsbD (k - 4)) else x.getLsbD (k - 8))
      else f.getLsbD (k - 12) := by
  refine (BitVec.getLsbD_append (x := f) (y := x ++ (y ++ n))).trans ?_
  rw [BitVec.getLsbD_append, BitVec.getLsbD_append]

theorem getLsbD_wordOfBytes (hi lo : Byte) (k : Nat) :
    (wordOfBytes hi lo).getLsbD k = if k < 8 then lo.getLsbD k else hi.getLsbD (k - 8) :=
  BitVec.getLsbD_append

/-! ### Fields of a packed word -/

@[simp] theorem opFamily_packNNN (f : Nibble) (n : Addr12) : opFamily (packNNN f n) = f := by
  refine BitVec.eq_of_getLsbD_eq fun k hk => ?_
  simp only [opFamily, BitVec.getLsbD_extractLsb', getLsbD_packNNN]
  interval_cases k <;> rfl

@[simp] theorem opNNN_packNNN (f : Nibble) (n : Addr12) : opNNN (packNNN f n) = n := by
  refine BitVec.eq_of_getLsbD_eq fun k hk => ?_
  simp only [opNNN, BitVec.getLsbD_extractLsb', getLsbD_packNNN]
  interval_cases k <;> rfl

@[simp] theorem opFamily_packXNN (f : Nibble) (x : RegId) (n : Byte) : opFamily (packXNN f x n) = f := by
  refine BitVec.eq_of_getLsbD_eq fun k hk => ?_
  simp only [opFamily, BitVec.getLsbD_extractLsb', getLsbD_packXNN]
  interval_cases k <;> rfl

@[simp] theorem opX_packXNN (f : Nibble) (x : RegId) (n : Byte) : opX (packXNN f x n) = x := by
  refine BitVec.eq_of_getLsbD_eq fun k hk => ?_
  simp only [opX, BitVec.getLsbD_extractLsb', getLsbD_packXNN]
  interval_cases k <;> rfl

@[simp] theorem opNN_packXNN (f : Nibble) (x : RegId) (n : Byte) : opNN (packXNN f x n) = n := by
  refine BitVec.eq_of_getLsbD_eq fun k hk => ?_
  simp only [opNN, BitVec.getLsbD_extractLsb', getLsbD_packXNN]
  interval_cases k <;> rfl

@[simp] theorem opFamily_packXYN (f : Nibble) (x y : RegId) (n : Nibble) : opFamily (packXYN f x y n) = f := by
  refine BitVec.eq_of_getLsbD_eq fun k hk => ?_
  simp only [opFamily, BitVec.getLsbD_extractLsb', getLsbD_packXYN]
  interval_cases k <;> rfl

@[simp] theorem opX_packXYN (f : Nibble) (x y : RegId) (n : Nibble) : opX (packXYN f x y n) = x := by
  refine BitVec.eq_of_getLsbD_eq fun k hk => ?_
  simp only [opX, BitVec.getLsbD_extractLsb', getLsbD_packXYN]
  interval_cases k <;> rfl

@[simp] theorem opY_packXYN (f : Nibble) (x y : RegId) (n : Nibble) : opY (packXYN f x y n) = y := by
  refine BitVec.eq_of_getLsbD_eq fun k hk => ?_
  simp only [opY, BitVec.getLsbD_extractLsb', getLsbD_packXYN]
  interval_cases k <;> rfl

@[simp] theorem opN_packXYN (f : Nibble) (x y : RegId) (n : Nibble) : opN (packXYN f x y n) = n := by
  refine BitVec.eq_of_getLsbD_eq fun k hk => ?_
  simp only [opN, BitVec.getLsbD_extractLsb', getLsbD_packXYN]
  interval_cases k <;> rfl

/-! ### The masks of R85 on a packed word -/

theorem packNNN_mask (f : Nibble) (n : Addr12) : packNNN f n &&& 0xF000 = packNNN f 0 := by
  refine BitVec.eq_of_getLsbD_eq fun k hk => ?_
  simp only [BitVec.getLsbD_and, getLsbD_packNNN]
  interval_cases k <;> simp

theorem packXNN_mask (f : Nibble) (x : RegId) (n : Byte) : packXNN f x n &&& 0xF000 = packXNN f 0 0 := by
  refine BitVec.eq_of_getLsbD_eq fun k hk => ?_
  simp only [BitVec.getLsbD_and, getLsbD_packXNN]
  interval_cases k <;> simp

theorem packXNN_mask_low (f : Nibble) (x : RegId) (n : Byte) : packXNN f x n &&& 0xF0FF = packXNN f 0 n := by
  refine BitVec.eq_of_getLsbD_eq fun k hk => ?_
  simp only [BitVec.getLsbD_and, getLsbD_packXNN]
  interval_cases k <;> simp

theorem packXYN_mask (f : Nibble) (x y : RegId) (n : Nibble) : packXYN f x y n &&& 0xF000 = packXYN f 0 0 0 := by
  refine BitVec.eq_of_getLsbD_eq fun k hk => ?_
  simp only [BitVec.getLsbD_and, getLsbD_packXYN]
  interval_cases k <;> simp

theorem packXYN_mask_low (f : Nibble) (x y : RegId) (n : Nibble) : packXYN f x y n &&& 0xF00F = packXYN f 0 0 n := by
  refine BitVec.eq_of_getLsbD_eq fun k hk => ?_
  simp only [BitVec.getLsbD_and, getLsbD_packXYN]
  interval_cases k <;> simp

/-! ### A word is its fields, packed -/

theorem packNNN_fields (op : Word) : packNNN (opFamily op) (opNNN op) = op := by
  refine BitVec.eq_of_getLsbD_eq fun k hk => ?_
  simp only [getLsbD_packNNN, opNNN, opFamily, BitVec.getLsbD_extractLsb']
  interval_cases k <;> rfl

theorem packXNN_fields (op : Word) : packXNN (opFamily op) (opX op) (opNN op) = op := by
  refine BitVec.eq_of_getLsbD_eq fun k hk => ?_
  simp only [getLsbD_packXNN, opX, opNN, opFamily, BitVec.getLsbD_extractLsb']
  interval_cases k <;> rfl

theorem packXYN_fields (op : Word) : packXYN (opFamily op) (opX op) (opY op) (opN op) = op := by
  refine BitVec.eq_of_getLsbD_eq fun k hk => ?_
  simp only [getLsbD_packXYN, opX, opY, opN, opFamily, BitVec.getLsbD_extractLsb']
  interval_cases k <;> rfl

/-! ### Bytes and words -/

/-- A word read back from its two bytes is the word (R55). -/
theorem wordOfBytes_bytesOfWord (w : Word) : wordOfBytes (w.extractLsb' 8 8) (w.extractLsb' 0 8) = w := by
  refine BitVec.eq_of_getLsbD_eq fun k hk => ?_
  simp only [getLsbD_wordOfBytes, BitVec.getLsbD_extractLsb']
  interval_cases k <;> rfl

/-- Decoding the bytes of a word is decoding the word (R80). -/
theorem decode_bytesOfWord (w : Word) (rest : List Byte) :
    decode (bytesOfWord w ++ rest) =
      match decodeWord w with
      | some i => .instr i rest
      | none => .unknownOpcode w := by
  cases h : decodeWord w <;>
    simp only [bytesOfWord, List.cons_append, List.nil_append, decode, wordOfBytes_bytesOfWord, h]

end Sys2Proof
end

