-- ==== Sys2Proof/Laws/State.lean ====
section
/-!
SUPPORT. What each update of the state does to each field, all true by unfolding: no later proof opens a record
update. The last part says the same of reading a register.
-/

namespace Sys2Proof.Machine

variable (s : State)

/-! ### setReg -/

@[simp] theorem State.setReg_mem (x : RegId) (b : Byte) : (s.setReg x b).mem = s.mem := rfl
@[simp] theorem State.setReg_v (x : RegId) (b : Byte) : (s.setReg x b).v = s.v.set x.toNat b x.isLt := rfl
@[simp] theorem State.setReg_i (x : RegId) (b : Byte) : (s.setReg x b).i = s.i := rfl
@[simp] theorem State.setReg_pc (x : RegId) (b : Byte) : (s.setReg x b).pc = s.pc := rfl
@[simp] theorem State.setReg_stack (x : RegId) (b : Byte) : (s.setReg x b).stack = s.stack := rfl
@[simp] theorem State.setReg_sp (x : RegId) (b : Byte) : (s.setReg x b).sp = s.sp := rfl
@[simp] theorem State.setReg_dt (x : RegId) (b : Byte) : (s.setReg x b).dt = s.dt := rfl
@[simp] theorem State.setReg_st (x : RegId) (b : Byte) : (s.setReg x b).st = s.st := rfl
@[simp] theorem State.setReg_halted (x : RegId) (b : Byte) : (s.setReg x b).halted = s.halted := rfl
@[simp] theorem State.setReg_cause (x : RegId) (b : Byte) : (s.setReg x b).cause = s.cause := rfl
@[simp] theorem State.setReg_fpc (x : RegId) (b : Byte) : (s.setReg x b).fpc = s.fpc := rfl
@[simp] theorem State.setReg_finfo (x : RegId) (b : Byte) : (s.setReg x b).finfo = s.finfo := rfl
@[simp] theorem State.setReg_grid (x : RegId) (b : Byte) : (s.setReg x b).grid = s.grid := rfl
@[simp] theorem State.setReg_dirty (x : RegId) (b : Byte) : (s.setReg x b).dirty = s.dirty := rfl
@[simp] theorem State.setReg_keys (x : RegId) (b : Byte) : (s.setReg x b).keys = s.keys := rfl
@[simp] theorem State.setReg_draws (x : RegId) (b : Byte) : (s.setReg x b).draws = s.draws := rfl

/-! ### setI -/

@[simp] theorem State.setI_mem (w : Word) : (s.setI w).mem = s.mem := rfl
@[simp] theorem State.setI_v (w : Word) : (s.setI w).v = s.v := rfl
@[simp] theorem State.setI_i (w : Word) : (s.setI w).i = w := rfl
@[simp] theorem State.setI_pc (w : Word) : (s.setI w).pc = s.pc := rfl
@[simp] theorem State.setI_stack (w : Word) : (s.setI w).stack = s.stack := rfl
@[simp] theorem State.setI_sp (w : Word) : (s.setI w).sp = s.sp := rfl
@[simp] theorem State.setI_dt (w : Word) : (s.setI w).dt = s.dt := rfl
@[simp] theorem State.setI_st (w : Word) : (s.setI w).st = s.st := rfl
@[simp] theorem State.setI_halted (w : Word) : (s.setI w).halted = s.halted := rfl
@[simp] theorem State.setI_cause (w : Word) : (s.setI w).cause = s.cause := rfl
@[simp] theorem State.setI_fpc (w : Word) : (s.setI w).fpc = s.fpc := rfl
@[simp] theorem State.setI_finfo (w : Word) : (s.setI w).finfo = s.finfo := rfl
@[simp] theorem State.setI_grid (w : Word) : (s.setI w).grid = s.grid := rfl
@[simp] theorem State.setI_dirty (w : Word) : (s.setI w).dirty = s.dirty := rfl
@[simp] theorem State.setI_keys (w : Word) : (s.setI w).keys = s.keys := rfl
@[simp] theorem State.setI_draws (w : Word) : (s.setI w).draws = s.draws := rfl

/-! ### setDt -/

@[simp] theorem State.setDt_mem (b : Byte) : (s.setDt b).mem = s.mem := rfl
@[simp] theorem State.setDt_v (b : Byte) : (s.setDt b).v = s.v := rfl
@[simp] theorem State.setDt_i (b : Byte) : (s.setDt b).i = s.i := rfl
@[simp] theorem State.setDt_pc (b : Byte) : (s.setDt b).pc = s.pc := rfl
@[simp] theorem State.setDt_stack (b : Byte) : (s.setDt b).stack = s.stack := rfl
@[simp] theorem State.setDt_sp (b : Byte) : (s.setDt b).sp = s.sp := rfl
@[simp] theorem State.setDt_dt (b : Byte) : (s.setDt b).dt = b := rfl
@[simp] theorem State.setDt_st (b : Byte) : (s.setDt b).st = s.st := rfl
@[simp] theorem State.setDt_halted (b : Byte) : (s.setDt b).halted = s.halted := rfl
@[simp] theorem State.setDt_cause (b : Byte) : (s.setDt b).cause = s.cause := rfl
@[simp] theorem State.setDt_fpc (b : Byte) : (s.setDt b).fpc = s.fpc := rfl
@[simp] theorem State.setDt_finfo (b : Byte) : (s.setDt b).finfo = s.finfo := rfl
@[simp] theorem State.setDt_grid (b : Byte) : (s.setDt b).grid = s.grid := rfl
@[simp] theorem State.setDt_dirty (b : Byte) : (s.setDt b).dirty = s.dirty := rfl
@[simp] theorem State.setDt_keys (b : Byte) : (s.setDt b).keys = s.keys := rfl
@[simp] theorem State.setDt_draws (b : Byte) : (s.setDt b).draws = s.draws := rfl

/-! ### setSt -/

@[simp] theorem State.setSt_mem (b : Byte) : (s.setSt b).mem = s.mem := rfl
@[simp] theorem State.setSt_v (b : Byte) : (s.setSt b).v = s.v := rfl
@[simp] theorem State.setSt_i (b : Byte) : (s.setSt b).i = s.i := rfl
@[simp] theorem State.setSt_pc (b : Byte) : (s.setSt b).pc = s.pc := rfl
@[simp] theorem State.setSt_stack (b : Byte) : (s.setSt b).stack = s.stack := rfl
@[simp] theorem State.setSt_sp (b : Byte) : (s.setSt b).sp = s.sp := rfl
@[simp] theorem State.setSt_dt (b : Byte) : (s.setSt b).dt = s.dt := rfl
@[simp] theorem State.setSt_st (b : Byte) : (s.setSt b).st = b := rfl
@[simp] theorem State.setSt_halted (b : Byte) : (s.setSt b).halted = s.halted := rfl
@[simp] theorem State.setSt_cause (b : Byte) : (s.setSt b).cause = s.cause := rfl
@[simp] theorem State.setSt_fpc (b : Byte) : (s.setSt b).fpc = s.fpc := rfl
@[simp] theorem State.setSt_finfo (b : Byte) : (s.setSt b).finfo = s.finfo := rfl
@[simp] theorem State.setSt_grid (b : Byte) : (s.setSt b).grid = s.grid := rfl
@[simp] theorem State.setSt_dirty (b : Byte) : (s.setSt b).dirty = s.dirty := rfl
@[simp] theorem State.setSt_keys (b : Byte) : (s.setSt b).keys = s.keys := rfl
@[simp] theorem State.setSt_draws (b : Byte) : (s.setSt b).draws = s.draws := rfl

/-! ### setPc -/

@[simp] theorem State.setPc_mem (w : Word) : (s.setPc w).mem = s.mem := rfl
@[simp] theorem State.setPc_v (w : Word) : (s.setPc w).v = s.v := rfl
@[simp] theorem State.setPc_i (w : Word) : (s.setPc w).i = s.i := rfl
@[simp] theorem State.setPc_pc (w : Word) : (s.setPc w).pc = w := rfl
@[simp] theorem State.setPc_stack (w : Word) : (s.setPc w).stack = s.stack := rfl
@[simp] theorem State.setPc_sp (w : Word) : (s.setPc w).sp = s.sp := rfl
@[simp] theorem State.setPc_dt (w : Word) : (s.setPc w).dt = s.dt := rfl
@[simp] theorem State.setPc_st (w : Word) : (s.setPc w).st = s.st := rfl
@[simp] theorem State.setPc_halted (w : Word) : (s.setPc w).halted = s.halted := rfl
@[simp] theorem State.setPc_cause (w : Word) : (s.setPc w).cause = s.cause := rfl
@[simp] theorem State.setPc_fpc (w : Word) : (s.setPc w).fpc = s.fpc := rfl
@[simp] theorem State.setPc_finfo (w : Word) : (s.setPc w).finfo = s.finfo := rfl
@[simp] theorem State.setPc_grid (w : Word) : (s.setPc w).grid = s.grid := rfl
@[simp] theorem State.setPc_dirty (w : Word) : (s.setPc w).dirty = s.dirty := rfl
@[simp] theorem State.setPc_keys (w : Word) : (s.setPc w).keys = s.keys := rfl
@[simp] theorem State.setPc_draws (w : Word) : (s.setPc w).draws = s.draws := rfl

/-! ### advance -/

@[simp] theorem State.advance_mem : s.advance.mem = s.mem := rfl
@[simp] theorem State.advance_v : s.advance.v = s.v := rfl
@[simp] theorem State.advance_i : s.advance.i = s.i := rfl
@[simp] theorem State.advance_pc : s.advance.pc = s.pc + 2 := rfl
@[simp] theorem State.advance_stack : s.advance.stack = s.stack := rfl
@[simp] theorem State.advance_sp : s.advance.sp = s.sp := rfl
@[simp] theorem State.advance_dt : s.advance.dt = s.dt := rfl
@[simp] theorem State.advance_st : s.advance.st = s.st := rfl
@[simp] theorem State.advance_halted : s.advance.halted = s.halted := rfl
@[simp] theorem State.advance_cause : s.advance.cause = s.cause := rfl
@[simp] theorem State.advance_fpc : s.advance.fpc = s.fpc := rfl
@[simp] theorem State.advance_finfo : s.advance.finfo = s.finfo := rfl
@[simp] theorem State.advance_grid : s.advance.grid = s.grid := rfl
@[simp] theorem State.advance_dirty : s.advance.dirty = s.dirty := rfl
@[simp] theorem State.advance_keys : s.advance.keys = s.keys := rfl
@[simp] theorem State.advance_draws : s.advance.draws = s.draws := rfl

/-! ### skipIf -/

@[simp] theorem State.skipIf_mem (c : Bool) : (s.skipIf c).mem = s.mem := rfl
@[simp] theorem State.skipIf_v (c : Bool) : (s.skipIf c).v = s.v := rfl
@[simp] theorem State.skipIf_i (c : Bool) : (s.skipIf c).i = s.i := rfl
@[simp] theorem State.skipIf_pc (c : Bool) : (s.skipIf c).pc = if c then s.pc + 4 else s.pc + 2 := rfl
@[simp] theorem State.skipIf_stack (c : Bool) : (s.skipIf c).stack = s.stack := rfl
@[simp] theorem State.skipIf_sp (c : Bool) : (s.skipIf c).sp = s.sp := rfl
@[simp] theorem State.skipIf_dt (c : Bool) : (s.skipIf c).dt = s.dt := rfl
@[simp] theorem State.skipIf_st (c : Bool) : (s.skipIf c).st = s.st := rfl
@[simp] theorem State.skipIf_halted (c : Bool) : (s.skipIf c).halted = s.halted := rfl
@[simp] theorem State.skipIf_cause (c : Bool) : (s.skipIf c).cause = s.cause := rfl
@[simp] theorem State.skipIf_fpc (c : Bool) : (s.skipIf c).fpc = s.fpc := rfl
@[simp] theorem State.skipIf_finfo (c : Bool) : (s.skipIf c).finfo = s.finfo := rfl
@[simp] theorem State.skipIf_grid (c : Bool) : (s.skipIf c).grid = s.grid := rfl
@[simp] theorem State.skipIf_dirty (c : Bool) : (s.skipIf c).dirty = s.dirty := rfl
@[simp] theorem State.skipIf_keys (c : Bool) : (s.skipIf c).keys = s.keys := rfl
@[simp] theorem State.skipIf_draws (c : Bool) : (s.skipIf c).draws = s.draws := rfl

/-! ### raise -/

@[simp] theorem State.raise_mem (f : Fault) : (s.raise f).mem = s.mem := rfl
@[simp] theorem State.raise_v (f : Fault) : (s.raise f).v = s.v := rfl
@[simp] theorem State.raise_i (f : Fault) : (s.raise f).i = s.i := rfl
@[simp] theorem State.raise_pc (f : Fault) : (s.raise f).pc = s.pc := rfl
@[simp] theorem State.raise_stack (f : Fault) : (s.raise f).stack = s.stack := rfl
@[simp] theorem State.raise_sp (f : Fault) : (s.raise f).sp = s.sp := rfl
@[simp] theorem State.raise_dt (f : Fault) : (s.raise f).dt = s.dt := rfl
@[simp] theorem State.raise_st (f : Fault) : (s.raise f).st = s.st := rfl
@[simp] theorem State.raise_halted (f : Fault) : (s.raise f).halted = true := rfl
@[simp] theorem State.raise_cause (f : Fault) : (s.raise f).cause = f.code := rfl
@[simp] theorem State.raise_fpc (f : Fault) : (s.raise f).fpc = s.pc := rfl
@[simp] theorem State.raise_finfo (f : Fault) : (s.raise f).finfo = f.info := rfl
@[simp] theorem State.raise_grid (f : Fault) : (s.raise f).grid = s.grid := rfl
@[simp] theorem State.raise_dirty (f : Fault) : (s.raise f).dirty = s.dirty := rfl
@[simp] theorem State.raise_keys (f : Fault) : (s.raise f).keys = s.keys := rfl
@[simp] theorem State.raise_draws (f : Fault) : (s.raise f).draws = s.draws := rfl

/-! ### storeAtI -/

@[simp] theorem State.storeAtI_mem (bs : List Byte) : (s.storeAtI bs).mem = s.mem.writeBlock s.i.toNat bs := rfl
@[simp] theorem State.storeAtI_v (bs : List Byte) : (s.storeAtI bs).v = s.v := rfl
@[simp] theorem State.storeAtI_i (bs : List Byte) : (s.storeAtI bs).i = s.i := rfl
@[simp] theorem State.storeAtI_pc (bs : List Byte) : (s.storeAtI bs).pc = s.pc := rfl
@[simp] theorem State.storeAtI_stack (bs : List Byte) : (s.storeAtI bs).stack = s.stack := rfl
@[simp] theorem State.storeAtI_sp (bs : List Byte) : (s.storeAtI bs).sp = s.sp := rfl
@[simp] theorem State.storeAtI_dt (bs : List Byte) : (s.storeAtI bs).dt = s.dt := rfl
@[simp] theorem State.storeAtI_st (bs : List Byte) : (s.storeAtI bs).st = s.st := rfl
@[simp] theorem State.storeAtI_halted (bs : List Byte) : (s.storeAtI bs).halted = s.halted := rfl
@[simp] theorem State.storeAtI_cause (bs : List Byte) : (s.storeAtI bs).cause = s.cause := rfl
@[simp] theorem State.storeAtI_fpc (bs : List Byte) : (s.storeAtI bs).fpc = s.fpc := rfl
@[simp] theorem State.storeAtI_finfo (bs : List Byte) : (s.storeAtI bs).finfo = s.finfo := rfl
@[simp] theorem State.storeAtI_grid (bs : List Byte) : (s.storeAtI bs).grid = s.grid := rfl
@[simp] theorem State.storeAtI_dirty (bs : List Byte) : (s.storeAtI bs).dirty = s.dirty := rfl
@[simp] theorem State.storeAtI_keys (bs : List Byte) : (s.storeAtI bs).keys = s.keys := rfl
@[simp] theorem State.storeAtI_draws (bs : List Byte) : (s.storeAtI bs).draws = s.draws := rfl

/-! ### bumpI -/

@[simp] theorem State.bumpI_mem (n : Nat) : (s.bumpI n).mem = s.mem := rfl
@[simp] theorem State.bumpI_v (n : Nat) : (s.bumpI n).v = s.v := rfl
@[simp] theorem State.bumpI_i (n : Nat) : (s.bumpI n).i = s.i + BitVec.ofNat 16 n := rfl
@[simp] theorem State.bumpI_pc (n : Nat) : (s.bumpI n).pc = s.pc := rfl
@[simp] theorem State.bumpI_stack (n : Nat) : (s.bumpI n).stack = s.stack := rfl
@[simp] theorem State.bumpI_sp (n : Nat) : (s.bumpI n).sp = s.sp := rfl
@[simp] theorem State.bumpI_dt (n : Nat) : (s.bumpI n).dt = s.dt := rfl
@[simp] theorem State.bumpI_st (n : Nat) : (s.bumpI n).st = s.st := rfl
@[simp] theorem State.bumpI_halted (n : Nat) : (s.bumpI n).halted = s.halted := rfl
@[simp] theorem State.bumpI_cause (n : Nat) : (s.bumpI n).cause = s.cause := rfl
@[simp] theorem State.bumpI_fpc (n : Nat) : (s.bumpI n).fpc = s.fpc := rfl
@[simp] theorem State.bumpI_finfo (n : Nat) : (s.bumpI n).finfo = s.finfo := rfl
@[simp] theorem State.bumpI_grid (n : Nat) : (s.bumpI n).grid = s.grid := rfl
@[simp] theorem State.bumpI_dirty (n : Nat) : (s.bumpI n).dirty = s.dirty := rfl
@[simp] theorem State.bumpI_keys (n : Nat) : (s.bumpI n).keys = s.keys := rfl
@[simp] theorem State.bumpI_draws (n : Nat) : (s.bumpI n).draws = s.draws := rfl

/-! ### displayClear -/

@[simp] theorem State.displayClear_mem : s.displayClear.mem = s.mem := rfl
@[simp] theorem State.displayClear_v : s.displayClear.v = s.v := rfl
@[simp] theorem State.displayClear_i : s.displayClear.i = s.i := rfl
@[simp] theorem State.displayClear_pc : s.displayClear.pc = s.pc := rfl
@[simp] theorem State.displayClear_stack : s.displayClear.stack = s.stack := rfl
@[simp] theorem State.displayClear_sp : s.displayClear.sp = s.sp := rfl
@[simp] theorem State.displayClear_dt : s.displayClear.dt = s.dt := rfl
@[simp] theorem State.displayClear_st : s.displayClear.st = s.st := rfl
@[simp] theorem State.displayClear_halted : s.displayClear.halted = s.halted := rfl
@[simp] theorem State.displayClear_cause : s.displayClear.cause = s.cause := rfl
@[simp] theorem State.displayClear_fpc : s.displayClear.fpc = s.fpc := rfl
@[simp] theorem State.displayClear_finfo : s.displayClear.finfo = s.finfo := rfl
@[simp] theorem State.displayClear_grid : s.displayClear.grid = Grid.blank := rfl
@[simp] theorem State.displayClear_dirty : s.displayClear.dirty = true := rfl
@[simp] theorem State.displayClear_keys : s.displayClear.keys = s.keys := rfl
@[simp] theorem State.displayClear_draws : s.displayClear.draws = s.draws := rfl

/-! ### displayDraw -/

@[simp] theorem State.displayDraw_mem (x y : Byte) (bs : List Byte) : (s.displayDraw x y bs).1.mem = s.mem := rfl
@[simp] theorem State.displayDraw_v (x y : Byte) (bs : List Byte) : (s.displayDraw x y bs).1.v = s.v := rfl
@[simp] theorem State.displayDraw_i (x y : Byte) (bs : List Byte) : (s.displayDraw x y bs).1.i = s.i := rfl
@[simp] theorem State.displayDraw_pc (x y : Byte) (bs : List Byte) : (s.displayDraw x y bs).1.pc = s.pc := rfl
@[simp] theorem State.displayDraw_stack (x y : Byte) (bs : List Byte) : (s.displayDraw x y bs).1.stack = s.stack := rfl
@[simp] theorem State.displayDraw_sp (x y : Byte) (bs : List Byte) : (s.displayDraw x y bs).1.sp = s.sp := rfl
@[simp] theorem State.displayDraw_dt (x y : Byte) (bs : List Byte) : (s.displayDraw x y bs).1.dt = s.dt := rfl
@[simp] theorem State.displayDraw_st (x y : Byte) (bs : List Byte) : (s.displayDraw x y bs).1.st = s.st := rfl
@[simp] theorem State.displayDraw_halted (x y : Byte) (bs : List Byte) : (s.displayDraw x y bs).1.halted = s.halted := rfl
@[simp] theorem State.displayDraw_cause (x y : Byte) (bs : List Byte) : (s.displayDraw x y bs).1.cause = s.cause := rfl
@[simp] theorem State.displayDraw_fpc (x y : Byte) (bs : List Byte) : (s.displayDraw x y bs).1.fpc = s.fpc := rfl
@[simp] theorem State.displayDraw_finfo (x y : Byte) (bs : List Byte) : (s.displayDraw x y bs).1.finfo = s.finfo := rfl
@[simp] theorem State.displayDraw_grid (x y : Byte) (bs : List Byte) : (s.displayDraw x y bs).1.grid = (s.canvas x y bs).grid := rfl
@[simp] theorem State.displayDraw_dirty (x y : Byte) (bs : List Byte) : (s.displayDraw x y bs).1.dirty = (s.dirty || (s.canvas x y bs).changed) := rfl
@[simp] theorem State.displayDraw_keys (x y : Byte) (bs : List Byte) : (s.displayDraw x y bs).1.keys = s.keys := rfl
@[simp] theorem State.displayDraw_draws (x y : Byte) (bs : List Byte) : (s.displayDraw x y bs).1.draws = s.draws := rfl

/-! ### drawByte -/

@[simp] theorem State.drawByte_mem : s.drawByte.2.mem = s.mem := rfl
@[simp] theorem State.drawByte_v : s.drawByte.2.v = s.v := rfl
@[simp] theorem State.drawByte_i : s.drawByte.2.i = s.i := rfl
@[simp] theorem State.drawByte_pc : s.drawByte.2.pc = s.pc := rfl
@[simp] theorem State.drawByte_stack : s.drawByte.2.stack = s.stack := rfl
@[simp] theorem State.drawByte_sp : s.drawByte.2.sp = s.sp := rfl
@[simp] theorem State.drawByte_dt : s.drawByte.2.dt = s.dt := rfl
@[simp] theorem State.drawByte_st : s.drawByte.2.st = s.st := rfl
@[simp] theorem State.drawByte_halted : s.drawByte.2.halted = s.halted := rfl
@[simp] theorem State.drawByte_cause : s.drawByte.2.cause = s.cause := rfl
@[simp] theorem State.drawByte_fpc : s.drawByte.2.fpc = s.fpc := rfl
@[simp] theorem State.drawByte_finfo : s.drawByte.2.finfo = s.finfo := rfl
@[simp] theorem State.drawByte_grid : s.drawByte.2.grid = s.grid := rfl
@[simp] theorem State.drawByte_dirty : s.drawByte.2.dirty = s.dirty := rfl
@[simp] theorem State.drawByte_keys : s.drawByte.2.keys = s.keys := rfl
@[simp] theorem State.drawByte_draws : s.drawByte.2.draws = s.draws + 1 := rfl

/-! ### placeAtPc -/

@[simp] theorem State.placeAtPc_mem (w : Word) : (s.placeAtPc w).mem = s.mem.writeBlock s.pc.toNat (bytesOfWord w) := rfl
@[simp] theorem State.placeAtPc_v (w : Word) : (s.placeAtPc w).v = s.v := rfl
@[simp] theorem State.placeAtPc_i (w : Word) : (s.placeAtPc w).i = s.i := rfl
@[simp] theorem State.placeAtPc_pc (w : Word) : (s.placeAtPc w).pc = s.pc := rfl
@[simp] theorem State.placeAtPc_stack (w : Word) : (s.placeAtPc w).stack = s.stack := rfl
@[simp] theorem State.placeAtPc_sp (w : Word) : (s.placeAtPc w).sp = s.sp := rfl
@[simp] theorem State.placeAtPc_dt (w : Word) : (s.placeAtPc w).dt = s.dt := rfl
@[simp] theorem State.placeAtPc_st (w : Word) : (s.placeAtPc w).st = s.st := rfl
@[simp] theorem State.placeAtPc_halted (w : Word) : (s.placeAtPc w).halted = s.halted := rfl
@[simp] theorem State.placeAtPc_cause (w : Word) : (s.placeAtPc w).cause = s.cause := rfl
@[simp] theorem State.placeAtPc_fpc (w : Word) : (s.placeAtPc w).fpc = s.fpc := rfl
@[simp] theorem State.placeAtPc_finfo (w : Word) : (s.placeAtPc w).finfo = s.finfo := rfl
@[simp] theorem State.placeAtPc_grid (w : Word) : (s.placeAtPc w).grid = s.grid := rfl
@[simp] theorem State.placeAtPc_dirty (w : Word) : (s.placeAtPc w).dirty = s.dirty := rfl
@[simp] theorem State.placeAtPc_keys (w : Word) : (s.placeAtPc w).keys = s.keys := rfl
@[simp] theorem State.placeAtPc_draws (w : Word) : (s.placeAtPc w).draws = s.draws := rfl

/-! ### keySet -/

@[simp] theorem State.keySet_mem (k : KeyId) (b : Bool) : (s.keySet k b).mem = s.mem := rfl
@[simp] theorem State.keySet_v (k : KeyId) (b : Bool) : (s.keySet k b).v = s.v := rfl
@[simp] theorem State.keySet_i (k : KeyId) (b : Bool) : (s.keySet k b).i = s.i := rfl
@[simp] theorem State.keySet_pc (k : KeyId) (b : Bool) : (s.keySet k b).pc = s.pc := rfl
@[simp] theorem State.keySet_stack (k : KeyId) (b : Bool) : (s.keySet k b).stack = s.stack := rfl
@[simp] theorem State.keySet_sp (k : KeyId) (b : Bool) : (s.keySet k b).sp = s.sp := rfl
@[simp] theorem State.keySet_dt (k : KeyId) (b : Bool) : (s.keySet k b).dt = s.dt := rfl
@[simp] theorem State.keySet_st (k : KeyId) (b : Bool) : (s.keySet k b).st = s.st := rfl
@[simp] theorem State.keySet_halted (k : KeyId) (b : Bool) : (s.keySet k b).halted = s.halted := rfl
@[simp] theorem State.keySet_cause (k : KeyId) (b : Bool) : (s.keySet k b).cause = s.cause := rfl
@[simp] theorem State.keySet_fpc (k : KeyId) (b : Bool) : (s.keySet k b).fpc = s.fpc := rfl
@[simp] theorem State.keySet_finfo (k : KeyId) (b : Bool) : (s.keySet k b).finfo = s.finfo := rfl
@[simp] theorem State.keySet_grid (k : KeyId) (b : Bool) : (s.keySet k b).grid = s.grid := rfl
@[simp] theorem State.keySet_dirty (k : KeyId) (b : Bool) : (s.keySet k b).dirty = s.dirty := rfl
@[simp] theorem State.keySet_keys (k : KeyId) (b : Bool) : (s.keySet k b).keys = s.keys.set k.toNat b k.isLt := rfl
@[simp] theorem State.keySet_draws (k : KeyId) (b : Bool) : (s.keySet k b).draws = s.draws := rfl

/-! ### takeDirty -/

@[simp] theorem State.takeDirty_mem : s.takeDirty.mem = s.mem := rfl
@[simp] theorem State.takeDirty_v : s.takeDirty.v = s.v := rfl
@[simp] theorem State.takeDirty_i : s.takeDirty.i = s.i := rfl
@[simp] theorem State.takeDirty_pc : s.takeDirty.pc = s.pc := rfl
@[simp] theorem State.takeDirty_stack : s.takeDirty.stack = s.stack := rfl
@[simp] theorem State.takeDirty_sp : s.takeDirty.sp = s.sp := rfl
@[simp] theorem State.takeDirty_dt : s.takeDirty.dt = s.dt := rfl
@[simp] theorem State.takeDirty_st : s.takeDirty.st = s.st := rfl
@[simp] theorem State.takeDirty_halted : s.takeDirty.halted = s.halted := rfl
@[simp] theorem State.takeDirty_cause : s.takeDirty.cause = s.cause := rfl
@[simp] theorem State.takeDirty_fpc : s.takeDirty.fpc = s.fpc := rfl
@[simp] theorem State.takeDirty_finfo : s.takeDirty.finfo = s.finfo := rfl
@[simp] theorem State.takeDirty_grid : s.takeDirty.grid = s.grid := rfl
@[simp] theorem State.takeDirty_dirty : s.takeDirty.dirty = false := rfl
@[simp] theorem State.takeDirty_keys : s.takeDirty.keys = s.keys := rfl
@[simp] theorem State.takeDirty_draws : s.takeDirty.draws = s.draws := rfl

/-! ### setResultFlag -/

@[simp] theorem State.setResultFlag_mem (x : RegId) (r f : Byte) : (s.setResultFlag x r f).mem = s.mem := rfl
@[simp] theorem State.setResultFlag_v (x : RegId) (r f : Byte) : (s.setResultFlag x r f).v = (s.v.set x.toNat r x.isLt).set vf.toNat f vf.isLt := rfl
@[simp] theorem State.setResultFlag_i (x : RegId) (r f : Byte) : (s.setResultFlag x r f).i = s.i := rfl
@[simp] theorem State.setResultFlag_pc (x : RegId) (r f : Byte) : (s.setResultFlag x r f).pc = s.pc := rfl
@[simp] theorem State.setResultFlag_stack (x : RegId) (r f : Byte) : (s.setResultFlag x r f).stack = s.stack := rfl
@[simp] theorem State.setResultFlag_sp (x : RegId) (r f : Byte) : (s.setResultFlag x r f).sp = s.sp := rfl
@[simp] theorem State.setResultFlag_dt (x : RegId) (r f : Byte) : (s.setResultFlag x r f).dt = s.dt := rfl
@[simp] theorem State.setResultFlag_st (x : RegId) (r f : Byte) : (s.setResultFlag x r f).st = s.st := rfl
@[simp] theorem State.setResultFlag_halted (x : RegId) (r f : Byte) : (s.setResultFlag x r f).halted = s.halted := rfl
@[simp] theorem State.setResultFlag_cause (x : RegId) (r f : Byte) : (s.setResultFlag x r f).cause = s.cause := rfl
@[simp] theorem State.setResultFlag_fpc (x : RegId) (r f : Byte) : (s.setResultFlag x r f).fpc = s.fpc := rfl
@[simp] theorem State.setResultFlag_finfo (x : RegId) (r f : Byte) : (s.setResultFlag x r f).finfo = s.finfo := rfl
@[simp] theorem State.setResultFlag_grid (x : RegId) (r f : Byte) : (s.setResultFlag x r f).grid = s.grid := rfl
@[simp] theorem State.setResultFlag_dirty (x : RegId) (r f : Byte) : (s.setResultFlag x r f).dirty = s.dirty := rfl
@[simp] theorem State.setResultFlag_keys (x : RegId) (r f : Byte) : (s.setResultFlag x r f).keys = s.keys := rfl
@[simp] theorem State.setResultFlag_draws (x : RegId) (r f : Byte) : (s.setResultFlag x r f).draws = s.draws := rfl

/-! ### resetEvent -/

@[simp] theorem State.resetEvent_mem : s.resetEvent.mem = State.reset.mem := rfl
@[simp] theorem State.resetEvent_v : s.resetEvent.v = State.reset.v := rfl
@[simp] theorem State.resetEvent_i : s.resetEvent.i = State.reset.i := rfl
@[simp] theorem State.resetEvent_pc : s.resetEvent.pc = State.reset.pc := rfl
@[simp] theorem State.resetEvent_stack : s.resetEvent.stack = State.reset.stack := rfl
@[simp] theorem State.resetEvent_sp : s.resetEvent.sp = State.reset.sp := rfl
@[simp] theorem State.resetEvent_dt : s.resetEvent.dt = State.reset.dt := rfl
@[simp] theorem State.resetEvent_st : s.resetEvent.st = State.reset.st := rfl
@[simp] theorem State.resetEvent_halted : s.resetEvent.halted = State.reset.halted := rfl
@[simp] theorem State.resetEvent_cause : s.resetEvent.cause = State.reset.cause := rfl
@[simp] theorem State.resetEvent_fpc : s.resetEvent.fpc = State.reset.fpc := rfl
@[simp] theorem State.resetEvent_finfo : s.resetEvent.finfo = State.reset.finfo := rfl
@[simp] theorem State.resetEvent_grid : s.resetEvent.grid = State.reset.grid := rfl
@[simp] theorem State.resetEvent_dirty : s.resetEvent.dirty = State.reset.dirty := rfl
@[simp] theorem State.resetEvent_keys : s.resetEvent.keys = s.keys := rfl
@[simp] theorem State.resetEvent_draws : s.resetEvent.draws = s.draws := rfl

/-! ### Reading a register after an update -/

@[simp] theorem State.setI_reg (w : Word) (r : RegId) : (s.setI w).reg r = s.reg r := rfl
@[simp] theorem State.setDt_reg (b : Byte) (r : RegId) : (s.setDt b).reg r = s.reg r := rfl
@[simp] theorem State.setSt_reg (b : Byte) (r : RegId) : (s.setSt b).reg r = s.reg r := rfl
@[simp] theorem State.setPc_reg (w : Word) (r : RegId) : (s.setPc w).reg r = s.reg r := rfl
@[simp] theorem State.advance_reg (r : RegId) : s.advance.reg r = s.reg r := rfl
@[simp] theorem State.skipIf_reg (c : Bool) (r : RegId) : (s.skipIf c).reg r = s.reg r := rfl
@[simp] theorem State.raise_reg (f : Fault) (r : RegId) : (s.raise f).reg r = s.reg r := rfl
@[simp] theorem State.storeAtI_reg (bs : List Byte) (r : RegId) : (s.storeAtI bs).reg r = s.reg r := rfl
@[simp] theorem State.bumpI_reg (n : Nat) (r : RegId) : (s.bumpI n).reg r = s.reg r := rfl
@[simp] theorem State.displayClear_reg (r : RegId) : s.displayClear.reg r = s.reg r := rfl
@[simp] theorem State.displayDraw_reg (x y : Byte) (bs : List Byte) (r : RegId) : (s.displayDraw x y bs).1.reg r = s.reg r := rfl
@[simp] theorem State.drawByte_reg (r : RegId) : s.drawByte.2.reg r = s.reg r := rfl
@[simp] theorem State.placeAtPc_reg (w : Word) (r : RegId) : (s.placeAtPc w).reg r = s.reg r := rfl
@[simp] theorem State.keySet_reg (k : KeyId) (b : Bool) (r : RegId) : (s.keySet k b).reg r = s.reg r := rfl
@[simp] theorem State.takeDirty_reg (r : RegId) : s.takeDirty.reg r = s.reg r := rfl

/-! ### The two values some updates answer -/

@[simp] theorem State.drawByte_fst : s.drawByte.1 = Config.randomByte s.draws := rfl
@[simp] theorem State.displayDraw_snd (x y : Byte) (bs : List Byte) :
    (s.displayDraw x y bs).2 = (s.canvas x y bs).collision := rfl

end Sys2Proof.Machine
end

