-- ==== Sys2Proof/Laws/Display.lean ====
section
/-!
SUPPORT. The laws of the Display: flipping a pixel flips that pixel alone, a blank grid has no pixel set, and a draw is,
pixel by pixel, an exclusive or with the sprite bit that lands there (R229, R230).
-/

namespace Sys2Proof.Machine

theorem Grid.pixel_flip (g : Grid) (r r' : Fin 32) (c c' : Fin 64) :
    (g.flip r c).pixel r' c' = if r' = r ∧ c' = c then !g.pixel r c else g.pixel r' c' := by
  simp only [Grid.flip, Grid.pixel, Vector.getElem_set]
  by_cases hr : r.val = r'.val
  · have hr' : r' = r := Fin.ext hr.symm
    subst hr'
    by_cases hc : c.val = c'.val
    · have hc' : c' = c := Fin.ext hc.symm
      subst hc'; simp
    · have hc' : c' ≠ c := fun h => hc (by rw [h])
      simp [hc, hc']
  · have hr' : r' ≠ r := fun h => hr (by rw [h])
    simp [hr, hr']

@[simp] theorem Grid.pixel_blank (r : Fin 32) (c : Fin 64) : Grid.blank.pixel r c = false := by
  simp [Grid.blank, Grid.pixel]

/-- Two grids with the same pixels are the same grid. -/
theorem Grid.ext_pixel {g h : Grid} (hp : ∀ r c, g.pixel r c = h.pixel r c) : g = h := by
  refine Vector.ext fun r hr => Vector.ext fun c hc => ?_
  exact hp ⟨r, hr⟩ ⟨c, hc⟩

/-! ### A draw, pixel by pixel -/

/-- What a part of a draw does: `on r c` is whether one of its 1 bits lands on the pixel (r, c). -/
structure Canvas.Drew (d e : Canvas) (on : Fin 32 → Fin 64 → Prop) : Prop where
  pixel : ∀ r c, (on r c → e.grid.pixel r c = !d.grid.pixel r c) ∧ (¬ on r c → e.grid.pixel r c = d.grid.pixel r c)
  collision : e.collision = true ↔ d.collision = true ∨ ∃ r c, on r c ∧ d.grid.pixel r c = true
  changed : e.changed = true ↔ d.changed = true ∨ ∃ r c, on r c

theorem Canvas.Drew.refl (d : Canvas) {on : Fin 32 → Fin 64 → Prop} (h : ∀ r c, ¬ on r c) : d.Drew d on :=
  ⟨fun r c => ⟨fun ho => absurd ho (h r c), fun _ => rfl⟩, by simp [h], by simp [h]⟩

/-- Two parts that meet no pixel in common, one after the other. -/
theorem Canvas.Drew.append {d e f : Canvas} {on on' : Fin 32 → Fin 64 → Prop} (h : d.Drew e on) (h' : e.Drew f on')
    (hd : ∀ r c, on r c → ¬ on' r c) : d.Drew f (fun r c => on r c ∨ on' r c) := by
  refine ⟨fun r c => ⟨?_, ?_⟩, ?_, ?_⟩
  · rintro (ho | ho)
    · rw [(h'.pixel r c).2 (hd r c ho), (h.pixel r c).1 ho]
    · rw [(h'.pixel r c).1 ho, (h.pixel r c).2 (fun h1 => hd r c h1 ho)]
  · intro ho
    rw [(h'.pixel r c).2 (fun h1 => ho (.inr h1)), (h.pixel r c).2 (fun h1 => ho (.inl h1))]
  · rw [h'.collision, h.collision, or_assoc]
    refine or_congr_right ⟨?_, ?_⟩
    · rintro (⟨r, c, ho, hp⟩ | ⟨r, c, ho, hp⟩)
      · exact ⟨r, c, .inl ho, hp⟩
      · exact ⟨r, c, .inr ho, by rw [← (h.pixel r c).2 (fun h1 => hd r c h1 ho)]; exact hp⟩
    · rintro ⟨r, c, ho | ho, hp⟩
      · exact .inl ⟨r, c, ho, hp⟩
      · exact .inr ⟨r, c, ho, by rw [(h.pixel r c).2 (fun h1 => hd r c h1 ho)]; exact hp⟩
  · rw [h'.changed, h.changed, or_assoc]
    refine or_congr_right ⟨?_, ?_⟩
    · rintro (⟨r, c, ho⟩ | ⟨r, c, ho⟩) <;> exact ⟨r, c, by tauto⟩
    · rintro ⟨r, c, ho | ho⟩
      · exact .inl ⟨r, c, ho⟩
      · exact .inr ⟨r, c, ho⟩

theorem Canvas.Drew.congr {d e : Canvas} {on on' : Fin 32 → Fin 64 → Prop} (h : d.Drew e on)
    (he : ∀ r c, on r c ↔ on' r c) : d.Drew e on' := by
  have : on = on' := by funext r c; exact propext (he r c)
  exact this ▸ h

theorem Canvas.drew_drawBit (d : Canvas) (r : Fin 32) (c : Fin 64) (bit : Bool) :
    d.Drew (d.drawBit r c bit) (fun r' c' => bit = true ∧ r' = r ∧ c' = c) := by
  cases bit with
  | false => exact Canvas.Drew.refl d (by simp)
  | true =>
    refine ⟨fun r' c' => ⟨?_, ?_⟩, ?_, ?_⟩
    · rintro ⟨-, rfl, rfl⟩; simp [Canvas.drawBit, Grid.pixel_flip]
    · intro h
      have h : ¬ (r' = r ∧ c' = c) := fun h1 => h ⟨rfl, h1⟩
      simp [Canvas.drawBit, Grid.pixel_flip, h]
    · simp [Canvas.drawBit]
    · simp [Canvas.drawBit]

/-- The columns of one sprite row: at most 8, so no two of them land on the same pixel. -/
theorem Canvas.drew_drawCols (d : Canvas) (r : Fin 32) (x : Nat) (b : Byte) (k n : Nat) (hn : k + n ≤ 64) :
    d.Drew (d.drawCols r x b k n)
      (fun r' c' => r' = r ∧ ∃ j, k ≤ j ∧ j < k + n ∧ (x + j) % 64 = c'.val ∧ spriteBit b j = true) := by
  induction n generalizing d k with
  | zero => exact Canvas.Drew.refl d (by rintro r c ⟨-, j, h1, h2, -⟩; omega)
  | succ n ih =>
    refine ((d.drew_drawBit r (Fin.ofNat 64 (x + k)) (spriteBit b k)).append (ih _ (k + 1) (by omega)) ?_).congr ?_
    · rintro r' c' ⟨-, -, hc⟩ ⟨-, j, h1, h2, h3, -⟩
      have : c'.val = (x + k) % 64 := by rw [hc]; rfl
      omega
    · intro r' c'
      have hc : c' = Fin.ofNat 64 (x + k) ↔ (x + k) % 64 = c'.val := by
        rw [Fin.ext_iff, eq_comm]; rfl
      rw [hc]
      constructor
      · rintro (⟨hb, hr, hc⟩ | ⟨hr, j, h1, h2, h3, h4⟩)
        · exact ⟨hr, k, le_refl _, by omega, hc, hb⟩
        · exact ⟨hr, j, by omega, by omega, h3, h4⟩
      · rintro ⟨hr, j, h1, h2, h3, h4⟩
        rcases Nat.eq_or_lt_of_le h1 with rfl | h1
        · exact .inl ⟨h4, hr, h3⟩
        · exact .inr ⟨hr, j, h1, by omega, h3, h4⟩

/-- The rows of a sprite: at most 32, so no two of them land on the same grid row. -/
theorem Canvas.drew_drawRows (d : Canvas) (x y j : Nat) (bs : List Byte) (hn : j + bs.length ≤ 32) :
    d.Drew (d.drawRows x y j bs)
      (fun r c => ∃ i k, j ≤ i ∧ i < j + bs.length ∧ k < 8 ∧ (y + i) % 32 = r.val ∧ (x + k) % 64 = c.val ∧
        spriteBit (bs.getD (i - j) 0) k = true) := by
  induction bs generalizing d j with
  | nil => exact Canvas.Drew.refl d (by rintro r c ⟨i, k, h1, h2, -⟩; simp at h2; omega)
  | cons b bs ih =>
    simp only [List.length_cons] at hn ⊢
    refine ((d.drew_drawCols (Fin.ofNat 32 (y + j)) x b 0 8 (by omega)).append (ih _ (j + 1) (by omega)) ?_).congr ?_
    · rintro r c ⟨hr, -⟩ ⟨i, k, h1, h2, -, h3, -⟩
      have : r.val = (y + j) % 32 := by rw [hr]; rfl
      omega
    · intro r c
      have hr : r = Fin.ofNat 32 (y + j) ↔ (y + j) % 32 = r.val := by
        rw [Fin.ext_iff, eq_comm]; rfl
      rw [hr]
      constructor
      · rintro (⟨hr, k, -, h2, h3, h4⟩ | ⟨i, k, h1, h2, h3, h4, h5, h6⟩)
        · exact ⟨j, k, le_refl _, by omega, by omega, hr, h3, by simpa using h4⟩
        · refine ⟨i, k, by omega, by omega, h3, h4, h5, ?_⟩
          rwa [show i - j = (i - (j + 1)) + 1 by omega, List.getD_cons_succ]
      · rintro ⟨i, k, h1, h2, h3, h4, h5, h6⟩
        rcases Nat.eq_or_lt_of_le h1 with rfl | h1
        · exact .inl ⟨h4, k, by omega, by omega, h5, by simpa using h6⟩
        · refine .inr ⟨i, k, h1, by omega, h3, h4, h5, ?_⟩
          rwa [show i - j = (i - (j + 1)) + 1 by omega, List.getD_cons_succ] at h6

/-- `DisplayDraw` of at most 32 rows is, pixel by pixel, an exclusive or with the sprite (R230). -/
theorem State.drew_canvas (s : State) (x y : Byte) (bs : List Byte) (hn : bs.length ≤ 32) :
    (⟨s.grid, false, false⟩ : Canvas).Drew (s.canvas x y bs)
      (fun r c => ∃ j k, j < bs.length ∧ k < 8 ∧ (y.toNat + j) % 32 = r.val ∧ (x.toNat + k) % 64 = c.val ∧
        spriteBit (bs.getD j 0) k = true) := by
  refine (Canvas.drew_drawRows _ x.toNat y.toNat 0 bs (by omega)).congr fun r c => ?_
  simp

end Sys2Proof.Machine
end

