-- ==== Sys2Proof/Laws/Events.lean ====
section
/-!
SUPPORT. The induction over runs, once: what every event of the host keeps, every run keeps (R9).
-/

namespace Sys2Proof.Machine

/-- A property of the state that every event keeps holds after every run, in every order of the events. -/
theorem System.run_keeps {P : State → Prop}
    (hP : ∀ (y z : System) (e : Event) (a : Answer), P y.state → y.event e = some (z, a) → P z.state) :
    ∀ {es : List Event} {y z : System}, P y.state → y.run es = some z → P z.state
  | [], _, _, h, hr => by cases hr; exact h
  | e :: es, y, _, h, hr => by
    unfold System.run at hr
    split at hr
    · cases hr
    · rename_i w a he
      exact System.run_keeps hP (hP y w e a h he) hr

end Sys2Proof.Machine
end

