-- ==== Sys2Proof/Laws/Memory.lean ====
section
/-!
SUPPORT. The laws of memory: a read after a write to the same address gives the value written, a write leaves every
other address alone, whatever the list looks like; and every write keeps the canonical form (R54, R60).
-/

namespace Sys2Proof.Machine

/-! ### Reading -/

theorem Memory.read_clear (m : Memory) (a c : Nat) :
    (m.clear a).read c = if c = a then resetByte c else m.read c := by
  induction m with
  | nil => simp [Memory.clear, Memory.read]
  | cons e rest ih =>
    obtain ⟨k, b⟩ := e
    simp only [Memory.clear] at ih
    by_cases hk : k = a
    · subst hk
      by_cases hc : c = k
      · subst hc; simpa [Memory.clear] using ih
      · simp [Memory.clear, Memory.read, ih, hc, Ne.symm hc]
    · have hb : (k != a) = true := by simpa using hk
      simp only [Memory.clear, List.filter_cons, hb, if_true, Memory.read, ih]
      by_cases hc : k = c
      · subst hc; simp [hk]
      · simp [hc]

theorem Memory.read_insert (m : Memory) (a c : Nat) (b : Byte) (h : ∀ e ∈ m, e.1 ≠ a) :
    (m.insert a b).read c = if c = a then b else m.read c := by
  induction m with
  | nil =>
    by_cases hc : c = a
    · simp [Memory.insert, Memory.read, hc]
    · simp [Memory.insert, Memory.read, hc, Ne.symm hc]
  | cons e rest ih =>
    obtain ⟨k, d⟩ := e
    have hk : k ≠ a := h (k, d) (by simp)
    have ih := ih (fun e he => h e (by simp [he]))
    by_cases hlt : a < k
    · by_cases hc : c = a
      · simp [Memory.insert, hlt, Memory.read, hc]
      · simp [Memory.insert, hlt, Memory.read, hc, Ne.symm hc]
    · simp only [Memory.insert, hlt, if_false, Memory.read, ih]
      by_cases hc : c = a
      · subst hc; simp [hk]
      · simp [hc]

theorem Memory.clear_ne {m : Memory} {a : Nat} : ∀ e ∈ m.clear a, e.1 ≠ a := by
  simp [Memory.clear]

/-- A write changes what its own address reads as, and nothing else. -/
theorem Memory.read_write (m : Memory) (a c : Nat) (b : Byte) :
    (m.write a b).read c = if c = a then b else m.read c := by
  unfold Memory.write
  split
  · rename_i hb
    rw [Memory.read_clear]
    by_cases hc : c = a <;> simp [hc, hb]
  · rw [Memory.read_insert _ _ _ _ Memory.clear_ne, Memory.read_clear]
    by_cases hc : c = a <;> simp [hc]

@[simp] theorem Memory.read_write_self (m : Memory) (a : Nat) (b : Byte) : (m.write a b).read a = b := by
  simp [Memory.read_write]

theorem Memory.read_write_ne (m : Memory) {a c : Nat} (b : Byte) (h : c ≠ a) :
    (m.write a b).read c = m.read c := by
  simp [Memory.read_write, h]

/-- Writing a block: inside it the block's bytes, outside it what was there. -/
theorem Memory.read_writeBlock (m : Memory) (a c : Nat) (bs : List Byte) :
    (m.writeBlock a bs).read c =
      if a ≤ c ∧ c < a + bs.length then bs.getD (c - a) 0 else m.read c := by
  induction bs generalizing m a with
  | nil => simp [Memory.writeBlock, show ¬ (a ≤ c ∧ c < a) by omega]
  | cons b bs ih =>
    rw [Memory.writeBlock, ih, Memory.read_write]
    by_cases h1 : a + 1 ≤ c ∧ c < a + 1 + bs.length
    · have h2 : a ≤ c ∧ c < a + (b :: bs).length := by simp only [List.length_cons]; omega
      rw [if_pos h1, if_pos h2, show c - a = (c - (a + 1)) + 1 by omega, List.getD_cons_succ]
    · rw [if_neg h1]
      by_cases hc : c = a
      · subst hc; simp
      · have h2 : ¬ (a ≤ c ∧ c < a + (b :: bs).length) := by simp only [List.length_cons]; omega
        rw [if_neg hc, if_neg h2]

/-- Outside the block nothing is written. -/
theorem Memory.read_writeBlock_outside (m : Memory) {a c : Nat} {bs : List Byte}
    (h : ¬ (a ≤ c ∧ c < a + bs.length)) : (m.writeBlock a bs).read c = m.read c := by
  rw [Memory.read_writeBlock, if_neg h]

@[simp] theorem Memory.length_readBlock (m : Memory) (a n : Nat) : (m.readBlock a n).length = n := by
  induction n generalizing a with
  | zero => rfl
  | succ n ih => simp [Memory.readBlock, ih]

/-- Byte `k` of a block is the byte at `a + k`. -/
theorem Memory.getD_readBlock (m : Memory) (a n k : Nat) (h : k < n) (d : Byte) :
    (m.readBlock a n).getD k d = m.read (a + k) := by
  induction n generalizing a k with
  | zero => omega
  | succ n ih =>
    cases k with
    | zero => simp [Memory.readBlock]
    | succ k => rw [Memory.readBlock, List.getD_cons_succ, ih _ _ (by omega), Nat.add_assoc, Nat.add_comm 1 k]

/-! ### The canonical form -/

theorem Memory.clear_wf {m : Memory} (a : Nat) (h : m.wf) : (m.clear a).wf :=
  ⟨h.1.filter _, fun c hc => h.2 c (List.mem_of_mem_filter hc)⟩

theorem Memory.mem_insert {m : Memory} {a : Nat} {b : Byte} {e : Host.Cell} :
    e ∈ m.insert a b ↔ e = (a, b) ∨ e ∈ m := by
  induction m with
  | nil => simp [Memory.insert]
  | cons f rest ih =>
    obtain ⟨k, c⟩ := f
    unfold Memory.insert
    split
    · simp
    · simp only [List.mem_cons, ih]; tauto

theorem Memory.insert_wf {m : Memory} {a : Nat} {b : Byte} (h : m.wf) (ha : a < Config.memSize)
    (hb : b ≠ resetByte a) (hne : ∀ e ∈ m, e.1 ≠ a) : (m.insert a b).wf := by
  refine ⟨?_, fun c hc => ?_⟩
  · induction m with
    | nil => simp [Memory.insert]
    | cons f rest ih =>
      obtain ⟨k, c⟩ := f
      obtain ⟨hs, hr⟩ := List.pairwise_cons.1 h.1
      unfold Memory.insert
      split
      · rename_i hlt
        refine List.pairwise_cons.2 ⟨fun e he => ?_, h.1⟩
        rcases List.mem_cons.1 he with rfl | he
        · exact hlt
        · exact lt_trans hlt (hs e he)
      · rename_i hlt
        refine List.pairwise_cons.2 ⟨fun e he => ?_, ih ⟨hr, fun e he => h.2 e (by simp [he])⟩ fun e he => hne e (by simp [he])⟩
        rcases Memory.mem_insert.1 he with rfl | he
        · have : k ≠ a := hne (k, c) (by simp)
          show k < a
          omega
        · exact hs e he
  · rcases Memory.mem_insert.1 hc with rfl | hc
    · exact ⟨ha, hb⟩
    · exact h.2 c hc

theorem Memory.write_wf {m : Memory} {a : Nat} (b : Byte) (h : m.wf) (ha : a < Config.memSize) :
    (m.write a b).wf := by
  unfold Memory.write
  split
  · exact Memory.clear_wf a h
  · rename_i hb
    exact Memory.insert_wf (Memory.clear_wf a h) ha hb Memory.clear_ne

theorem Memory.writeBlock_wf {m : Memory} {a : Nat} {bs : List Byte} (h : m.wf)
    (ha : a + bs.length ≤ Config.memSize) : (m.writeBlock a bs).wf := by
  induction bs generalizing m a with
  | nil => exact h
  | cons b bs ih =>
    simp only [List.length_cons] at ha
    exact ih (Memory.write_wf b h (by omega)) (by omega)

theorem Memory.wf_nil : Memory.wf [] := ⟨List.Pairwise.nil, by simp⟩

end Sys2Proof.Machine
end

