-- ==== Sys2Proof/Laws/Registers.lean ====
section
/-!
SUPPORT. The laws of the register file: reading after one write (R21), after a result and a flag (R23), and after a
block of writes (R155); and the bytes of a block of reads (R154).
-/

namespace Sys2Proof.Machine

variable (s : State)

/-- A write to a register changes what that register reads as, and no other. -/
theorem State.reg_setReg (x y : RegId) (b : Byte) :
    (s.setReg x b).reg y = if y = x then b else s.reg y := by
  simp only [State.reg, State.setReg, Vector.getElem_set, BitVec.toNat_inj, eq_comm]

@[simp] theorem State.reg_setReg_self (x : RegId) (b : Byte) : (s.setReg x b).reg x = b := by
  simp [State.reg_setReg]

theorem State.reg_setReg_ne {x y : RegId} (b : Byte) (h : y ≠ x) : (s.setReg x b).reg y = s.reg y := by
  simp [State.reg_setReg, h]

/-- The result and the flag (R23): VF holds the flag, whatever X is; VX the result, unless X is F. -/
theorem State.reg_setResultFlag (x y : RegId) (r f : Byte) :
    (s.setResultFlag x r f).reg y = if y = vf then f else if y = x then r else s.reg y := by
  simp [State.setResultFlag, State.reg_setReg]

/-- A block of register writes touches the register file only. -/
theorem State.setRegs_eq (k : Nat) (bs : List Byte) : ∃ v, s.setRegs k bs = { s with v := v } := by
  induction bs generalizing s k with
  | nil => exact ⟨s.v, rfl⟩
  | cons b bs ih =>
    obtain ⟨v, hv⟩ := ih (s.setReg (BitVec.ofNat 4 k) b) (k + 1)
    exact ⟨v, by rw [State.setRegs, hv]; rfl⟩

/-- After a block of register writes: the block's bytes in its registers, every other register as before. -/
theorem State.reg_setRegs (k : Nat) (bs : List Byte) (y : RegId) (h : k + bs.length ≤ 16) :
    (s.setRegs k bs).reg y =
      if k ≤ y.toNat ∧ y.toNat < k + bs.length then bs.getD (y.toNat - k) 0 else s.reg y := by
  induction bs generalizing s k with
  | nil => simp [State.setRegs, show ¬ (k ≤ y.toNat ∧ y.toNat < k) by omega]
  | cons b bs ih =>
    simp only [List.length_cons] at h ⊢
    have hk : y = BitVec.ofNat 4 k ↔ y.toNat = k := by
      rw [← BitVec.toNat_inj, BitVec.toNat_ofNat, Nat.mod_eq_of_lt (by omega)]
    rw [State.setRegs, ih _ _ (by omega), State.reg_setReg]
    simp only [hk]
    by_cases h1 : k + 1 ≤ y.toNat ∧ y.toNat < k + 1 + bs.length
    · rw [if_pos h1, if_pos (by omega), show y.toNat - k = (y.toNat - (k + 1)) + 1 by omega, List.getD_cons_succ]
    · rw [if_neg h1]
      by_cases hy : y.toNat = k
      · rw [if_pos hy, if_pos (by omega)]; simp [hy]
      · rw [if_neg hy, if_neg (by omega)]

@[simp] theorem State.length_regBlock (k n : Nat) : (s.regBlock k n).length = n := by
  induction n generalizing k with
  | zero => rfl
  | succ n ih => simp [State.regBlock, ih]

/-- Byte `j` of a block of registers is V`k+j`. -/
theorem State.getD_regBlock (k n j : Nat) (h : j < n) (d : Byte) :
    (s.regBlock k n).getD j d = s.reg (BitVec.ofNat 4 (k + j)) := by
  induction n generalizing k j with
  | zero => omega
  | succ n ih =>
    cases j with
    | zero => simp [State.regBlock]
    | succ j => rw [State.regBlock, List.getD_cons_succ, ih _ _ (by omega), Nat.add_assoc, Nat.add_comm 1 j]

end Sys2Proof.Machine
end

