-- ==== Sys2Proof/Laws/Ops.lean ====
section
/-!
SUPPORT. For each shared operation, what it can answer: the range check (R53, R67, R214), the call stack (R27), the
key selection (R190), the key pick (R192), and taking a fault (R220).
-/

namespace Sys2Proof.Machine

/-! ### The range check -/

/-- The check passes exactly when there is no byte to access or all of them are below 4096. -/
theorem rangeFault_eq_none {base : Word} {n : Nat} :
    rangeFault base n = none ↔ n = 0 ∨ base.toNat + n ≤ 4096 := by
  unfold rangeFault Config.memSize
  split <;> [simp_all; (split <;> simp_all)]

/-- When it fails it reports the lowest out-of-range address: the base, or else 4096. -/
theorem rangeFault_eq_some {base : Word} {n : Nat} (h0 : n ≠ 0) (h : 4096 < base.toNat + n) :
    rangeFault base n = some (.memoryOutOfRange (if 4096 ≤ base.toNat then base else 0x1000)) := by
  unfold rangeFault Config.memSize
  rw [if_neg h0, if_neg (by omega)]
  rfl

/-- Everything a failed range check says: a byte was asked for, one is out of range, and which address is reported. -/
theorem rangeFault_cases {base : Word} {n : Nat} {f : Fault} (h : rangeFault base n = some f) :
    n ≠ 0 ∧ 4096 < base.toNat + n ∧ f = .memoryOutOfRange (if 4096 ≤ base.toNat then base else 0x1000) := by
  by_cases h1 : n = 0 ∨ base.toNat + n ≤ 4096
  · rw [rangeFault_eq_none.2 h1] at h; cases h
  · obtain ⟨h0, h1⟩ := not_or.1 h1
    rw [rangeFault_eq_some h0 (by omega), Option.some.injEq] at h
    exact ⟨h0, by omega, h.symm⟩

/-! ### The call stack -/

theorem State.push_full {s : State} {w : Word} (h : s.sp.val = 16) : s.push w = none := by
  simp [State.push, h]

/-- A push that succeeds writes the entry above the live ones and counts it. -/
theorem State.push_ok {s : State} (w : Word) (h : s.sp.val < 16) :
    s.push w = some { s with stack := s.stack.set s.sp.val w h, sp := ⟨s.sp.val + 1, by omega⟩ } := by
  simp [State.push, h]

theorem State.pop_empty {s : State} (h : s.sp.val = 0) : s.pop = none := by
  simp [State.pop, h]

/-- A pop that succeeds answers the topmost live entry and moves `sp` only. -/
theorem State.pop_ok {s : State} (h : 0 < s.sp.val) :
    s.pop = some (s.stack[s.sp.val - 1]'(by have := s.sp.isLt; omega),
      { s with sp := ⟨s.sp.val - 1, by have := s.sp.isLt; omega⟩ }) := by
  simp [State.pop, h]

/-! ### Keys -/

theorem State.keyAt_ok {s : State} {k : Byte} (h : k.toNat ≤ 15) :
    s.keyAt k = some (s.key (k.setWidth 4)) := by
  simp [State.keyAt, show ¬ k.toNat > 15 by omega]

theorem State.keyAt_out {s : State} {k : Byte} (h : 15 < k.toNat) : s.keyAt k = none := by
  simp [State.keyAt, h]

theorem mem_allKeys (k : KeyId) : k ∈ allKeys := by
  simp only [allKeys, List.mem_map, List.mem_range]
  exact ⟨k.toNat, k.isLt, by simp⟩

theorem State.mem_pressedKeys {s : State} {k : KeyId} : k ∈ s.pressedKeys ↔ s.key k = true := by
  simp [State.pressedKeys, mem_allKeys]

theorem State.pickKey_none {s : State} (h : ∀ k, s.key k = false) : s.pickKey = none := by
  have : s.pressedKeys = [] := by
    rw [List.eq_nil_iff_forall_not_mem]
    intro k hk
    simp [State.mem_pressedKeys, h] at hk
  simp [State.pickKey, this]

/-- With a key pressed the pick is some pressed key, and one free value is used up. -/
theorem State.pickKey_some {s : State} {k : KeyId} (h : s.key k = true) :
    ∃ p, s.key p = true ∧ s.pickKey = some (p, { s with draws := s.draws + 1 }) := by
  have hk : k ∈ s.pressedKeys := State.mem_pressedKeys.2 h
  unfold State.pickKey
  split
  · rename_i h0; simp [h0] at hk
  · rename_i q qs hq
    refine ⟨_, ?_, rfl⟩
    rw [← State.mem_pressedKeys, hq]
    have hl : Config.keyPick s.draws (q :: qs) % (q :: qs).length < (q :: qs).length := Nat.mod_lt _ (by simp)
    rw [List.getD_eq_getElem _ _ hl]
    exact List.getElem_mem hl

/-! ### Taking a fault -/

theorem State.raise_eq (s : State) (f : Fault) :
    s.raise f = { s with halted := true, cause := f.code, fpc := s.pc, finfo := f.info } := rfl

/-- A fault's code is never 0, the code of no fault. -/
theorem Fault.code_ne_zero (f : Fault) : f.code ≠ 0 := by
  cases f <;> simp [Fault.code]

end Sys2Proof.Machine
end

