-- ==== Sys2Proof/Laws/Step.lean ====
section
/-!
SUPPORT. What a step can do, said once: the cases of fetch (R10, R219, R223) and of `step`; and what taking a fault is
in the words of the frames (R220).
-/

namespace Sys2Proof.Machine

/-! ### Fetch -/

theorem State.fetch_of_halted {s : State} (h : s.halted = true) : s.fetch = .halted := by
  simp [State.fetch, h]

theorem State.fetch_of_outOfRange {s : State} (h : s.halted = false) (hp : 4095 ≤ s.pc.toNat) :
    s.fetch = .fault (.memoryOutOfRange (if 4096 ≤ s.pc.toNat then s.pc else 0x1000)) := by
  simp [State.fetch, h, rangeFault_eq_some (base := s.pc) (n := 2) (by omega) (by omega)]

theorem State.fetch_of_inRange {s : State} (h : s.halted = false) (hp : s.pc.toNat < 4095) :
    s.fetch = match decodeWord (s.mem.readWord s.pc.toNat) with
      | some i => .run i
      | none => .fault (.unknownOpcode (s.mem.readWord s.pc.toNat)) := by
  have hr : rangeFault s.pc 2 = none := rangeFault_eq_none.2 (.inr (by omega))
  simp only [State.fetch, h, hr]
  cases decodeWord (s.mem.readWord s.pc.toNat) <;> rfl

/-- What the fetch of a core that finds an instruction says of the state. -/
theorem State.fetch_eq_run {s : State} {i : Instr} :
    s.fetch = .run i ↔
      s.halted = false ∧ s.pc.toNat < 4095 ∧ decodeWord (s.mem.readWord s.pc.toNat) = some i := by
  cases h : s.halted with
  | true => simp [State.fetch_of_halted h]
  | false =>
    by_cases hp : s.pc.toNat < 4095
    · rw [State.fetch_of_inRange h hp]
      cases decodeWord (s.mem.readWord s.pc.toNat) <;> simp [hp]
    · rw [State.fetch_of_outOfRange h (by omega)]
      simp [hp]

/-- The faults of fetch and decode (R211, R214 (a)). -/
theorem State.fetch_eq_fault {s : State} {f : Fault} (h : s.fetch = .fault f) :
    s.halted = false ∧
      ((4095 ≤ s.pc.toNat ∧ f = .memoryOutOfRange (if 4096 ≤ s.pc.toNat then s.pc else 0x1000)) ∨
       (s.pc.toNat < 4095 ∧ decodeWord (s.mem.readWord s.pc.toNat) = none ∧
        f = .unknownOpcode (s.mem.readWord s.pc.toNat))) := by
  cases hh : s.halted with
  | true => simp [State.fetch_of_halted hh] at h
  | false =>
    by_cases hp : s.pc.toNat < 4095
    · rw [State.fetch_of_inRange hh hp] at h
      cases hd : decodeWord (s.mem.readWord s.pc.toNat) with
      | some i => rw [hd] at h; cases h
      | none => rw [hd] at h; cases h; exact ⟨rfl, .inr ⟨hp, rfl, rfl⟩⟩
    · rw [State.fetch_of_outOfRange hh (by omega)] at h
      cases h
      exact ⟨rfl, .inl ⟨by omega, rfl⟩⟩

/-! ### Step -/

/-- Everything a step can do: nothing when halted, the fault of its fetch or decode, or its instruction. -/
theorem step_cases {s t : State} (h : step s = .next t) :
    (s.halted = true ∧ t = s) ∨ (∃ f, s.fetch = .fault f ∧ t = s.raise f) ∨
      ∃ i, s.fetch = .run i ∧ exec i s = .next t := by
  unfold step at h
  split at h
  · rename_i hf
    cases h
    refine .inl ⟨?_, rfl⟩
    by_contra hh
    have hh : s.halted = false := by simpa using hh
    unfold State.fetch at hf
    rw [hh] at hf
    simp only [Bool.false_eq_true, if_false] at hf
    split at hf <;> [cases hf; (split at hf <;> cases hf)]
  · rename_i f hf
    cases h
    exact .inr (.inl ⟨f, hf, rfl⟩)
  · rename_i i hf
    exact .inr (.inr ⟨i, hf, h⟩)

theorem step_of_run {s : State} {i : Instr} (h : s.fetch = .run i) : step s = exec i s := by
  simp [step, h]

theorem step_of_fault {s : State} {f : Fault} (h : s.fetch = .fault f) : step s = .next (s.raise f) := by
  simp [step, h, faultStep]

/-! ### Frames -/

theorem Frame.refl (s : State) (regs : List RegId) (parts : List Part) (bytes : Nat × Nat) :
    Frame s s regs parts bytes :=
  ⟨fun _ _ => rfl, fun p _ => by cases p <;> simp [Part.Same], fun _ _ => rfl⟩

/-- Taking a fault is fault entry as R220 gives it. -/
theorem State.raise_faultTaken (s : State) (f : Fault) : FaultTaken s (s.raise f) f.code f.info :=
  ⟨⟨fun _ _ => rfl, fun p hp => by cases p <;> simp_all [Part.Same], fun _ _ => rfl⟩, rfl, rfl, rfl, rfl, rfl⟩

end Sys2Proof.Machine
end

