-- ==== Sys2Proof/Laws/Exec.lean ====
section
/-!
SUPPORT. The meanings that have more than one outcome, as one equation per outcome; every other meaning is one
equation already. And the membership of the register lists of the frames.
-/

namespace Sys2Proof.Machine

variable {s : State}

theorem execRet_ok (h : 0 < s.sp.val) :
    execRet s = .next (({ s with sp := ⟨s.sp.val - 1, by have := s.sp.isLt; omega⟩ } : State).setPc
      (s.stack[s.sp.val - 1]'(by have := s.sp.isLt; omega))) := by
  simp only [execRet, State.pop_ok h]

theorem execRet_empty (h : s.sp.val = 0) : execRet s = .next (s.raise (.stackUnderflow s.sp)) := by
  simp only [execRet, State.pop_empty h]

theorem execCall_ok (nnn : Addr12) (h : s.sp.val < 16) :
    execCall nnn s = .next (State.setPc
      { s with stack := s.stack.set s.sp.val (s.pc + 2) h, sp := ⟨s.sp.val + 1, by omega⟩ } (zextNNN nnn)) := by
  simp only [execCall, State.push_ok _ h]

theorem execCall_full (nnn : Addr12) (h : s.sp.val = 16) :
    execCall nnn s = .next (s.raise (.stackOverflow s.sp)) := by
  simp only [execCall, State.push_full h]

theorem execLdBcd_ok (x : RegId) (h : s.i.toNat + 3 ≤ 4096) :
    execLdBcd x s = .next (s.storeAtI (bcdDigits (s.reg x))).advance := by
  simp only [execLdBcd, rangeFault_eq_none.2 (.inr h)]

theorem execLdBcd_out (x : RegId) (h : 4096 < s.i.toNat + 3) :
    execLdBcd x s = .next (s.raise (.memoryOutOfRange (if 4096 ≤ s.i.toNat then s.i else 0x1000))) := by
  simp only [execLdBcd, rangeFault_eq_some (base := s.i) (n := 3) (by omega) h]

theorem execStRegs_ok (x : RegId) (h : s.i.toNat + x.toNat < 4096) :
    execStRegs x s = .next ((s.storeAtI (s.regBlock 0 (regCount x))).bumpI (regCount x)).advance := by
  simp only [execStRegs, rangeFault_eq_none.2 (.inr (show s.i.toNat + regCount x ≤ 4096 by simp only [regCount]; omega))]

theorem execStRegs_out (x : RegId) (h : 4096 ≤ s.i.toNat + x.toNat) :
    execStRegs x s = .next (s.raise (.memoryOutOfRange (if 4096 ≤ s.i.toNat then s.i else 0x1000))) := by
  simp only [execStRegs, rangeFault_eq_some (base := s.i) (n := regCount x) (by simp [regCount])
    (by simp only [regCount]; omega)]

theorem execLdRegs_ok (x : RegId) (h : s.i.toNat + x.toNat < 4096) :
    execLdRegs x s = .next ((s.setRegs 0 (s.atI (regCount x))).bumpI (regCount x)).advance := by
  simp only [execLdRegs, rangeFault_eq_none.2 (.inr (show s.i.toNat + regCount x ≤ 4096 by simp only [regCount]; omega))]

theorem execLdRegs_out (x : RegId) (h : 4096 ≤ s.i.toNat + x.toNat) :
    execLdRegs x s = .next (s.raise (.memoryOutOfRange (if 4096 ≤ s.i.toNat then s.i else 0x1000))) := by
  simp only [execLdRegs, rangeFault_eq_some (base := s.i) (n := regCount x) (by simp [regCount])
    (by simp only [regCount]; omega)]

theorem execDrw_ok (x y : RegId) (n : Nibble) (h : n = 0 ∨ s.i.toNat + n.toNat ≤ 4096) :
    execDrw x y n s = .next ((s.displayDraw (s.reg x) (s.reg y) (s.atI n.toNat)).1.setReg vf
      (flagByte (s.canvas (s.reg x) (s.reg y) (s.atI n.toNat)).collision)).advance := by
  have hr : rangeFault s.i n.toNat = none := rangeFault_eq_none.2 (h.imp_left (by rintro rfl; rfl))
  simp only [execDrw, hr, State.displayDraw_snd]

theorem execDrw_out (x y : RegId) (n : Nibble) (h0 : n ≠ 0) (h : 4096 < s.i.toNat + n.toNat) :
    execDrw x y n s = .next (s.raise (.memoryOutOfRange (if 4096 ≤ s.i.toNat then s.i else 0x1000))) := by
  simp only [execDrw, rangeFault_eq_some (base := s.i) (fun hn => h0 (BitVec.eq_of_toNat_eq hn)) h]

theorem execSkp_ok (x : RegId) (h : (s.reg x).toNat ≤ 15) :
    execSkp x s = .next (s.skipIf (s.key ((s.reg x).setWidth 4))) := by
  simp only [execSkp, State.keyAt_ok h]

theorem execSkp_out (x : RegId) (h : 15 < (s.reg x).toNat) :
    execSkp x s = .next (s.raise (.keyIndexOutOfRange (s.reg x))) := by
  simp only [execSkp, State.keyAt_out h]

theorem execSknp_ok (x : RegId) (h : (s.reg x).toNat ≤ 15) :
    execSknp x s = .next (s.skipIf (!s.key ((s.reg x).setWidth 4))) := by
  simp only [execSknp, State.keyAt_ok h]

theorem execSknp_out (x : RegId) (h : 15 < (s.reg x).toNat) :
    execSknp x s = .next (s.raise (.keyIndexOutOfRange (s.reg x))) := by
  simp only [execSknp, State.keyAt_out h]

theorem execLdKey_none (x : RegId) (h : ∀ k, s.key k = false) : execLdKey x s = .next s := by
  simp only [execLdKey, State.pickKey_none h]

theorem execLdKey_some (x : RegId) {k : KeyId} (h : s.key k = true) :
    ∃ p : KeyId, s.key p = true ∧
      execLdKey x s = .next (({ s with draws := s.draws + 1 } : State).setReg x (p.setWidth 8)).advance := by
  obtain ⟨p, hp, he⟩ := State.pickKey_some h
  exact ⟨p, hp, by simp only [execLdKey, he]⟩

/-- V0, ..., VX are the registers with a number up to X. -/
theorem mem_regsUpTo {x k : RegId} : k ∈ regsUpTo x ↔ k.toNat ≤ x.toNat := by
  simp only [regsUpTo, List.mem_map, List.mem_range]
  constructor
  · rintro ⟨a, h, rfl⟩
    have := x.isLt
    rw [BitVec.toNat_ofNat, Nat.mod_eq_of_lt (by omega)]
    omega
  · exact fun h => ⟨k.toNat, by omega, by simp⟩

end Sys2Proof.Machine
end

