-- ==== Sys2Proof/Laws/PerInstr.lean ====
section
/-!
SUPPORT. What holds of every instruction, one lemma per constructor: its encoding matches the row of the opcode table
(R85) that bears its mnemonic, and so is a well-formed word.
-/

namespace Sys2Proof.Laws.RowOfTable

/-- The row of R85 with the instruction's mnemonic selects the instruction's encoding. -/
def Statement (i : Instr) : Prop :=
  ∃ r ∈ opcodeTable, r.mnemonic = i.mnemonic ∧ r.selects (encode i) = true

theorem cls : Statement .cls :=
  ⟨⟨"CLS", 0x00E0, 0xFFFF⟩, by decide, rfl, rfl⟩

theorem ret : Statement .ret :=
  ⟨⟨"RET", 0x00EE, 0xFFFF⟩, by decide, rfl, rfl⟩

theorem jp (nnn : Addr12) : Statement (.jp nnn) :=
  ⟨⟨"JP_nnn", 0x1000, 0xF000⟩, by decide, rfl, by simp only [OpcodeRow.selects, encode, packNNN_mask]; rfl⟩

theorem call (nnn : Addr12) : Statement (.call nnn) :=
  ⟨⟨"CALL_nnn", 0x2000, 0xF000⟩, by decide, rfl, by simp only [OpcodeRow.selects, encode, packNNN_mask]; rfl⟩

theorem seImm (x : RegId) (nn : Byte) : Statement (.seImm x nn) :=
  ⟨⟨"SE_Vx__nn", 0x3000, 0xF000⟩, by decide, rfl, by simp only [OpcodeRow.selects, encode, packXNN_mask]; rfl⟩

theorem sneImm (x : RegId) (nn : Byte) : Statement (.sneImm x nn) :=
  ⟨⟨"SNE_Vx__nn", 0x4000, 0xF000⟩, by decide, rfl, by simp only [OpcodeRow.selects, encode, packXNN_mask]; rfl⟩

theorem seReg (x y : RegId) : Statement (.seReg x y) :=
  ⟨⟨"SE_Vx__Vy", 0x5000, 0xF00F⟩, by decide, rfl, by simp only [OpcodeRow.selects, encode, packXYN_mask_low]; rfl⟩

theorem ldImm (x : RegId) (nn : Byte) : Statement (.ldImm x nn) :=
  ⟨⟨"LD_Vx__nn", 0x6000, 0xF000⟩, by decide, rfl, by simp only [OpcodeRow.selects, encode, packXNN_mask]; rfl⟩

theorem addImm (x : RegId) (nn : Byte) : Statement (.addImm x nn) :=
  ⟨⟨"ADD_Vx__nn", 0x7000, 0xF000⟩, by decide, rfl, by simp only [OpcodeRow.selects, encode, packXNN_mask]; rfl⟩

theorem ldReg (x y : RegId) : Statement (.ldReg x y) :=
  ⟨⟨"LD_Vx__Vy", 0x8000, 0xF00F⟩, by decide, rfl, by simp only [OpcodeRow.selects, encode, packXYN_mask_low]; rfl⟩

theorem orReg (x y : RegId) : Statement (.orReg x y) :=
  ⟨⟨"OR_Vx__Vy", 0x8001, 0xF00F⟩, by decide, rfl, by simp only [OpcodeRow.selects, encode, packXYN_mask_low]; rfl⟩

theorem andReg (x y : RegId) : Statement (.andReg x y) :=
  ⟨⟨"AND_Vx__Vy", 0x8002, 0xF00F⟩, by decide, rfl, by simp only [OpcodeRow.selects, encode, packXYN_mask_low]; rfl⟩

theorem xorReg (x y : RegId) : Statement (.xorReg x y) :=
  ⟨⟨"XOR_Vx__Vy", 0x8003, 0xF00F⟩, by decide, rfl, by simp only [OpcodeRow.selects, encode, packXYN_mask_low]; rfl⟩

theorem addReg (x y : RegId) : Statement (.addReg x y) :=
  ⟨⟨"ADD_Vx__Vy", 0x8004, 0xF00F⟩, by decide, rfl, by simp only [OpcodeRow.selects, encode, packXYN_mask_low]; rfl⟩

theorem subReg (x y : RegId) : Statement (.subReg x y) :=
  ⟨⟨"SUB_Vx__Vy", 0x8005, 0xF00F⟩, by decide, rfl, by simp only [OpcodeRow.selects, encode, packXYN_mask_low]; rfl⟩

theorem shr (x y : RegId) : Statement (.shr x y) :=
  ⟨⟨"SHR_Vx", 0x8006, 0xF00F⟩, by decide, rfl, by simp only [OpcodeRow.selects, encode, packXYN_mask_low]; rfl⟩

theorem subnReg (x y : RegId) : Statement (.subnReg x y) :=
  ⟨⟨"SUBN_Vx__Vy", 0x8007, 0xF00F⟩, by decide, rfl, by simp only [OpcodeRow.selects, encode, packXYN_mask_low]; rfl⟩

theorem shl (x y : RegId) : Statement (.shl x y) :=
  ⟨⟨"SHL_Vx", 0x800E, 0xF00F⟩, by decide, rfl, by simp only [OpcodeRow.selects, encode, packXYN_mask_low]; rfl⟩

theorem sneReg (x y : RegId) : Statement (.sneReg x y) :=
  ⟨⟨"SNE_Vx__Vy", 0x9000, 0xF00F⟩, by decide, rfl, by simp only [OpcodeRow.selects, encode, packXYN_mask_low]; rfl⟩

theorem ldI (nnn : Addr12) : Statement (.ldI nnn) :=
  ⟨⟨"LD_I__nnn", 0xA000, 0xF000⟩, by decide, rfl, by simp only [OpcodeRow.selects, encode, packNNN_mask]; rfl⟩

theorem jpV0 (nnn : Addr12) : Statement (.jpV0 nnn) :=
  ⟨⟨"JP_V0__nnn", 0xB000, 0xF000⟩, by decide, rfl, by simp only [OpcodeRow.selects, encode, packNNN_mask]; rfl⟩

theorem rnd (x : RegId) (nn : Byte) : Statement (.rnd x nn) :=
  ⟨⟨"RND_Vx__nn", 0xC000, 0xF000⟩, by decide, rfl, by simp only [OpcodeRow.selects, encode, packXNN_mask]; rfl⟩

theorem drw (x y : RegId) (n : Nibble) : Statement (.drw x y n) :=
  ⟨⟨"DRW_Vx__Vy__n", 0xD000, 0xF000⟩, by decide, rfl, by simp only [OpcodeRow.selects, encode, packXYN_mask]; rfl⟩

theorem skp (x : RegId) : Statement (.skp x) :=
  ⟨⟨"SKP_Vx", 0xE09E, 0xF0FF⟩, by decide, rfl, by simp only [OpcodeRow.selects, encode, packXNN_mask_low]; rfl⟩

theorem sknp (x : RegId) : Statement (.sknp x) :=
  ⟨⟨"SKNP_Vx", 0xE0A1, 0xF0FF⟩, by decide, rfl, by simp only [OpcodeRow.selects, encode, packXNN_mask_low]; rfl⟩

theorem ldFromDt (x : RegId) : Statement (.ldFromDt x) :=
  ⟨⟨"LD_Vx__DT", 0xF007, 0xF0FF⟩, by decide, rfl, by simp only [OpcodeRow.selects, encode, packXNN_mask_low]; rfl⟩

theorem ldKey (x : RegId) : Statement (.ldKey x) :=
  ⟨⟨"LD_Vx__K", 0xF00A, 0xF0FF⟩, by decide, rfl, by simp only [OpcodeRow.selects, encode, packXNN_mask_low]; rfl⟩

theorem ldDt (x : RegId) : Statement (.ldDt x) :=
  ⟨⟨"LD_DT__Vx", 0xF015, 0xF0FF⟩, by decide, rfl, by simp only [OpcodeRow.selects, encode, packXNN_mask_low]; rfl⟩

theorem ldSt (x : RegId) : Statement (.ldSt x) :=
  ⟨⟨"LD_ST__Vx", 0xF018, 0xF0FF⟩, by decide, rfl, by simp only [OpcodeRow.selects, encode, packXNN_mask_low]; rfl⟩

theorem addI (x : RegId) : Statement (.addI x) :=
  ⟨⟨"ADD_I__Vx", 0xF01E, 0xF0FF⟩, by decide, rfl, by simp only [OpcodeRow.selects, encode, packXNN_mask_low]; rfl⟩

theorem ldFont (x : RegId) : Statement (.ldFont x) :=
  ⟨⟨"LD_F__Vx", 0xF029, 0xF0FF⟩, by decide, rfl, by simp only [OpcodeRow.selects, encode, packXNN_mask_low]; rfl⟩

theorem ldBcd (x : RegId) : Statement (.ldBcd x) :=
  ⟨⟨"LD_B__Vx", 0xF033, 0xF0FF⟩, by decide, rfl, by simp only [OpcodeRow.selects, encode, packXNN_mask_low]; rfl⟩

theorem stRegs (x : RegId) : Statement (.stRegs x) :=
  ⟨⟨"LD__I___Vx", 0xF055, 0xF0FF⟩, by decide, rfl, by simp only [OpcodeRow.selects, encode, packXNN_mask_low]; rfl⟩

theorem ldRegs (x : RegId) : Statement (.ldRegs x) :=
  ⟨⟨"LD_Vx___I", 0xF065, 0xF0FF⟩, by decide, rfl, by simp only [OpcodeRow.selects, encode, packXNN_mask_low]; rfl⟩

end Sys2Proof.Laws.RowOfTable
end

