-- ==== Sys2Proof/Tests/Slice0.lean ====
section
/-!
SUPPORT. Tests by evaluation. Expected values come from `95_test_vectors.md` (the section or example is named) or are
worked out by hand from the rule cited; the last part gives, for every statement with hypotheses, a state and operands
that meet them.
-/

namespace Sys2Proof.Tests

open Sys2Proof Sys2Proof.Machine

/-! ## Helpers -/

/-- The state an outcome ends in; the reset state for any other outcome. -/
def after (o : Host.Outcome State Fault Refusal) : State :=
  match o with
  | .next t => t
  | .fault _ => State.reset
  | .refused _ => State.reset

/-- One `Step` from a state with an opcode at `pc`. -/
def stepOn (op : Nat) (s : State) : State := after (step (s.withFetchWord 16 op))

/-- The reset state with bytes at an address. -/
def withMem (a : Nat) (bs : List Byte) : State := { State.reset with mem := Memory.writeBlock [] a bs }

/-- The reset state with one key pressed. -/
def withKey (k : KeyId) : State := State.reset.keySet k true

/-- The fault record in the notation of `95_test_vectors.md`: cause, `fpc`, `finfo`. -/
def record (s : State) : Bool × Fin 6 × Word × Word := (s.halted, s.cause, s.fpc, s.finfo)

/-! ## Words: the table's check, and one word of every constructor, written out from its row of R85 -/

theorem test_wellFormed_refuses_family0 : Word.wellFormed 0x0000 = false ∧ Word.wellFormed 0x01E0 = false ∧
    Word.wellFormed 0x0FEE = false ∧ Word.wellFormed 0x00E1 = false := by decide
theorem test_wellFormed_refuses_5_and_9 : Word.wellFormed 0x5121 = false ∧ Word.wellFormed 0x912F = false := by decide
theorem test_wellFormed_refuses_family8 : Word.wellFormed 0x8128 = false ∧ Word.wellFormed 0x812F = false := by decide
theorem test_wellFormed_refuses_familyE : Word.wellFormed 0xE100 = false ∧ Word.wellFormed 0xE1A0 = false := by decide
theorem test_wellFormed_refuses_familyF : Word.wellFormed 0xF108 = false ∧ Word.wellFormed 0xFFFF = false := by decide
theorem test_wellFormed_accepts : Word.wellFormed 0x00E0 = true ∧ Word.wellFormed 0xFF65 = true := by decide

-- The unknown words of section 2.1.
theorem test_unknown_words :
    [0x0000, 0x00E1, 0x00FE, 0x01E0, 0x0123, 0x0FEE, 0x5121, 0x5AB1, 0x912F, 0x8128, 0x8129, 0x812A, 0x812B, 0x812C,
     0x812D, 0x812F, 0xE100, 0xE19F, 0xE1A0, 0xF100, 0xF108, 0xF156, 0xF175, 0xFFFF].all
      (fun op => decodeWord op == none) = true := by decide

-- Section 2.1 and the bit pictures of R82.
theorem test_decode_fixed : decodeWord 0b0000000011100000 = some .cls ∧ decodeWord 0b0000000011101110 = some .ret := by
  decide
theorem test_decode_nnn : decodeWord 0b0001101010111100 = some (.jp 0xABC) ∧
    decodeWord 0b0010111111111111 = some (.call 0xFFF) ∧ decodeWord 0b1010000100100011 = some (.ldI 0x123) ∧
    decodeWord 0b1011001100000000 = some (.jpV0 0x300) := by decide
theorem test_decode_xnn : decodeWord 0b0011101001000010 = some (.seImm 0xA 0x42) ∧
    decodeWord 0b0100101001000010 = some (.sneImm 0xA 0x42) ∧ decodeWord 0b0110101011111111 = some (.ldImm 0xA 0xFF) ∧
    decodeWord 0b0111101000000010 = some (.addImm 0xA 0x02) ∧ decodeWord 0b1100000100001111 = some (.rnd 0x1 0x0F) := by
  decide
theorem test_decode_xys : decodeWord 0b0101101010110000 = some (.seReg 0xA 0xB) ∧
    decodeWord 0b1001000100100000 = some (.sneReg 0x1 0x2) ∧ decodeWord 0b1000000100100000 = some (.ldReg 0x1 0x2) ∧
    decodeWord 0b1000000100100001 = some (.orReg 0x1 0x2) ∧ decodeWord 0b1000000100100010 = some (.andReg 0x1 0x2) ∧
    decodeWord 0b1000000100100011 = some (.xorReg 0x1 0x2) := by decide
theorem test_decode_xys_flags : decodeWord 0b1000000100100100 = some (.addReg 0x1 0x2) ∧
    decodeWord 0b1000000100100101 = some (.subReg 0x1 0x2) ∧ decodeWord 0b1000101010110110 = some (.shr 0xA 0xB) ∧
    decodeWord 0b1000000100100111 = some (.subnReg 0x1 0x2) ∧ decodeWord 0b1000101010111110 = some (.shl 0xA 0xB) := by
  decide
theorem test_decode_xyn : decodeWord 0b1101000100101111 = some (.drw 0x1 0x2 0xF) := by decide
theorem test_decode_xss_keys_timers : decodeWord 0b1110111110011110 = some (.skp 0xF) ∧
    decodeWord 0b1110010110100001 = some (.sknp 0x5) ∧ decodeWord 0b1111001100000111 = some (.ldFromDt 0x3) ∧
    decodeWord 0b1111000100001010 = some (.ldKey 0x1) ∧ decodeWord 0b1111000000010101 = some (.ldDt 0x0) ∧
    decodeWord 0b1111000000011000 = some (.ldSt 0x0) := by decide
theorem test_decode_xss_index : decodeWord 0b1111001000011110 = some (.addI 0x2) ∧
    decodeWord 0b1111000000101001 = some (.ldFont 0x0) ∧ decodeWord 0b1111000100110011 = some (.ldBcd 0x1) ∧
    decodeWord 0b1111111101010101 = some (.stRegs 0xF) ∧ decodeWord 0b1111000001100101 = some (.ldRegs 0x0) := by decide
-- The high byte is the first in memory (R55).
theorem test_decode_bytes_bigEndian : decode [0x1A, 0xBC, 0x77] = .instr (.jp 0xABC) [0x77] := by decide
theorem test_decodeTableWord : decodeTableWord 16 0xD12F = some (.drw 0x1 0x2 0xF) := by decide

/-! ## Fetch (section 2.2) -/

theorem test_fetch_last_legal : (stepOn 0x6000 (State.reset.setPc 0xFFE)).pc = 0x1000 := by decide
theorem test_fetch_second_byte_out : record (after (step (State.reset.setPc 0xFFF))) = (true, 4, 0xFFF, 0x1000) := by
  decide
theorem test_fetch_out : record (after (step (State.reset.setPc 0x10FE))) = (true, 4, 0x10FE, 0x10FE) := by decide
theorem test_fetch_odd : (stepOn 0x6A01 (State.reset.setPc 0x201)).reg 0xA = 1 := by decide
theorem test_fetch_unknown : record (stepOn 0x5121 State.reset) = (true, 1, 0x200, 0x5121) := by decide
-- An empty ROM (P8): the first word is 0x0000.
theorem test_reset_first_step : record (after (step State.reset)) = (true, 1, 0x200, 0x0000) := by decide
-- Running into the font: F0 90 is unknown (section 2.3, B000).
theorem test_font_is_fetched : record (after (step (State.reset.setPc 0))) = (true, 1, 0x000, 0xF090) := by decide

/-! ## Control transfer (section 2.3) -/

theorem test_ret : (stepOn 0x00EE { State.reset with sp := 16, stack := State.reset.stack.set 15 0xABC }).pc = 0xABC := by
  decide
theorem test_ret_underflow : record (stepOn 0x00EE State.reset) = (true, 3, 0x200, 0x0000) := by decide
theorem test_jp : (stepOn 0x1ABC State.reset).pc = 0xABC := by decide
theorem test_call : (stepOn 0x2ABC { State.reset with pc := 0xFFE, sp := 15 }).stack[15] = 0x1000 ∧
    (stepOn 0x2ABC { State.reset with pc := 0xFFE, sp := 15 }).sp = 16 := by decide
theorem test_call_overflow : record (stepOn 0x2ABC { State.reset with sp := 16 }) = (true, 2, 0x200, 0x0010) := by decide
theorem test_seImm : (stepOn 0x3A42 (State.reset.setReg 0xA 0x42)).pc = 0x204 ∧
    (stepOn 0x3A42 (State.reset.setReg 0xA 0x43)).pc = 0x202 := by decide
theorem test_sneImm : (stepOn 0x4A42 (State.reset.setReg 0xA 0x42)).pc = 0x202 ∧
    (stepOn 0x4A42 (State.reset.setReg 0xA 0x43)).pc = 0x204 := by decide
theorem test_seReg : (stepOn 0x5120 ((State.reset.setReg 1 7).setReg 2 7)).pc = 0x204 ∧
    (stepOn 0x5120 ((State.reset.setReg 1 7).setReg 2 8)).pc = 0x202 := by decide
theorem test_sneReg : (stepOn 0x9120 ((State.reset.setReg 1 7).setReg 2 7)).pc = 0x202 ∧
    (stepOn 0x9120 ((State.reset.setReg 1 7).setReg 2 8)).pc = 0x204 := by decide
theorem test_jpV0 : (stepOn 0xBFFF (State.reset.setReg 0 0xFF)).pc = 0x10FE ∧
    (stepOn 0xB300 ((State.reset.setReg 0 0x10).setReg 3 0x55)).pc = 0x310 := by decide

/-! ## Registers and arithmetic (section 2.4) -/

theorem test_ldImm : (stepOn 0x6AFF State.reset).reg 0xA = 0xFF := by decide
theorem test_addImm : (stepOn 0x7A02 ((State.reset.setReg 0xA 0xFF).setReg 0xF 1)).reg 0xA = 0x01 ∧
    (stepOn 0x7A02 ((State.reset.setReg 0xA 0xFF).setReg 0xF 1)).reg 0xF = 1 := by decide
theorem test_ldReg : (stepOn 0x8120 ((State.reset.setReg 1 0x01).setReg 2 0x99)).reg 1 = 0x99 := by decide
theorem test_orReg : (stepOn 0x8121 ((State.reset.setReg 1 0xF0).setReg 2 0x0F)).reg 1 = 0xFF := by decide
theorem test_andReg : (stepOn 0x8122 ((State.reset.setReg 1 0xF0).setReg 2 0x3C)).reg 1 = 0x30 := by decide
theorem test_xorReg : (stepOn 0x8123 ((State.reset.setReg 1 0xF0).setReg 2 0x3C)).reg 1 = 0xCC := by decide
theorem test_logic_keeps_vf : (stepOn 0x8121 (State.reset.setReg 0xF 1)).reg 0xF = 1 := by decide
theorem test_addReg : (stepOn 0x8124 ((State.reset.setReg 1 0xFF).setReg 2 0xFF)).reg 1 = 0xFE ∧
    (stepOn 0x8124 ((State.reset.setReg 1 0xFF).setReg 2 0xFF)).reg 0xF = 1 := by decide
-- The flag is written second: the sum is lost (8F14), and the old VF is the addend (81F4).
theorem test_addReg_vf : (stepOn 0x8F14 ((State.reset.setReg 0xF 1).setReg 1 1)).reg 0xF = 0 ∧
    (stepOn 0x81F4 ((State.reset.setReg 1 0x10).setReg 0xF 0xF8)).reg 1 = 0x08 := by decide
theorem test_subReg : (stepOn 0x8125 ((State.reset.setReg 1 3).setReg 2 5)).reg 1 = 0xFE ∧
    (stepOn 0x8125 (((State.reset.setReg 1 3).setReg 2 5).setReg 0xF 1)).reg 0xF = 0 := by decide
theorem test_subReg_equal : (stepOn 0x8125 ((State.reset.setReg 1 5).setReg 2 5)).reg 0xF = 1 := by decide
theorem test_shr : (stepOn 0x8126 ((State.reset.setReg 1 5).setReg 2 0xFF)).reg 1 = 0x02 ∧
    (stepOn 0x8126 ((State.reset.setReg 1 5).setReg 2 0xFF)).reg 0xF = 1 := by decide
theorem test_shr_vf : (stepOn 0x8F06 (State.reset.setReg 0xF 2)).reg 0xF = 0 := by decide
theorem test_subnReg : (stepOn 0x8127 ((State.reset.setReg 1 3).setReg 2 5)).reg 1 = 0x02 ∧
    (stepOn 0x8127 ((State.reset.setReg 1 5).setReg 2 3)).reg 1 = 0xFE := by decide
theorem test_subnReg_vf : (stepOn 0x8F17 ((State.reset.setReg 0xF 3).setReg 1 5)).reg 0xF = 1 ∧
    (stepOn 0x8F17 ((State.reset.setReg 0xF 5).setReg 1 3)).reg 0xF = 0 := by decide
theorem test_shl : (stepOn 0x812E ((State.reset.setReg 1 0x81).setReg 2 0xFF)).reg 1 = 0x02 ∧
    (stepOn 0x812E (State.reset.setReg 1 0x41)).reg 1 = 0x82 := by decide
theorem test_shl_vf : (stepOn 0x8F0E (State.reset.setReg 0xF 0x80)).reg 0xF = 1 := by decide
-- C100 is 0 whatever the byte (R131); the byte itself is free, so only that is tested.
theorem test_rnd_masked (s : State) : (after (exec (.rnd 1 0) s)).reg 1 = 0 := by
  show (State.setReg _ 1 (0 &&& _)).reg 1 = 0
  simp [State.reg, State.setReg]
theorem test_rnd_frame : (stepOn 0xC10F State.reset).pc = 0x202 ∧ (stepOn 0xC10F State.reset).draws = 1 := by decide

/-! ## Index and memory (section 2.5) -/

theorem test_ldI : (stepOn 0xAFFF (State.reset.setI 0x1234)).i = 0x0FFF := by decide
theorem test_addI : (stepOn 0xF11E ((State.reset.setI 0xFFFF).setReg 1 2)).i = 0x0001 ∧
    (stepOn 0xF11E ((State.reset.setI 0x0FFF).setReg 1 1)).i = 0x1000 := by decide
theorem test_addI_no_flag : (stepOn 0xF11E (((State.reset.setI 0x100).setReg 1 0x20).setReg 0xF 1)).reg 0xF = 1 := by
  decide
theorem test_ldFont : (stepOn 0xF129 (State.reset.setReg 1 0x0A)).i = 0x0032 ∧
    (stepOn 0xF129 (State.reset.setReg 1 0xFF)).i = 0x04FB := by decide
theorem test_ldBcd : (stepOn 0xF133 ((State.reset.setI 0xFFD).setReg 1 234)).mem.readBlock 0xFFD 3 = [2, 3, 4] := by
  decide
theorem test_ldBcd_out : record (stepOn 0xF133 ((State.reset.setI 0xFFE).setReg 1 7)) = (true, 4, 0x200, 0x1000) := by
  decide
theorem test_stRegs : (stepOn 0xF255 ((((State.reset.setI 0x400).setReg 0 0x11).setReg 1 0x22).setReg 3 0x44)).mem.readBlock
    0x400 4 = [0x11, 0x22, 0x00, 0x00] ∧ (stepOn 0xFF55 (State.reset.setI 0xFF0)).i = 0x1000 := by decide
theorem test_stRegs_out : record (stepOn 0xF055 (State.reset.setI 0xFFFF)) = (true, 4, 0x200, 0xFFFF) := by decide
-- F165 at I = 0 reads the font's first bytes.
theorem test_ldRegs : (stepOn 0xF165 (State.reset.setReg 2 7)).reg 0 = 0xF0 ∧ (stepOn 0xF165 State.reset).reg 1 = 0x90 ∧
    (stepOn 0xF165 (State.reset.setReg 2 7)).reg 2 = 7 ∧ (stepOn 0xF165 State.reset).i = 2 := by decide
theorem test_ldRegs_out : record (stepOn 0xFF65 (State.reset.setI 0xFF1)) = (true, 4, 0x200, 0x1000) := by decide
-- Writing what an unlisted address reads as leaves nothing listed.
theorem test_write_canonical : Memory.write (Memory.write [] 0x300 5) 0x300 0 = [] ∧
    Memory.write (Memory.write [] 0x301 7) 0x300 5 = [(0x300, 5), (0x301, 7)] ∧
    Memory.write [] 0x000 0xF0 = [] := by decide

/-! ## Display (section 2.6) -/

theorem test_cls : (stepOn 0x00E0 State.reset).dirty = true ∧
    (stepOn 0x00E0 { State.reset with grid := State.reset.grid.flip 31 63 }).grid.pixel 31 63 = false := by decide
-- Example S5: a row at x = 63, y = 31 wraps to columns 0 to 6.
theorem test_drw_wraps : (stepOn 0xD121 ((((withMem 0x300 [0xFF]).setI 0x300).setReg 1 63).setReg 2 31)).grid.pixel 31 63
      = true ∧
    (stepOn 0xD121 ((((withMem 0x300 [0xFF]).setI 0x300).setReg 1 63).setReg 2 31)).grid.pixel 31 6 = true ∧
    (stepOn 0xD121 ((((withMem 0x300 [0xFF]).setI 0x300).setReg 1 63).setReg 2 31)).grid.pixel 31 7 = false := by decide
-- Bit 0 is the rightmost column, and there is no collision without an overlap; bit 7 on a set pixel collides.
theorem test_drw_collision :
    (stepOn 0xD121 { (withMem 0x300 [0x01]).setI 0x300 with grid := State.reset.grid.flip 0 0 }).reg 0xF = 0 ∧
    (stepOn 0xD121 { (withMem 0x300 [0x01]).setI 0x300 with grid := State.reset.grid.flip 0 0 }).grid.pixel 0 7 = true ∧
    (stepOn 0xD121 { (withMem 0x300 [0x80]).setI 0x300 with grid := State.reset.grid.flip 0 0 }).reg 0xF = 1 := by decide
-- N = 0 with I out of range: no fault, and VF is cleared.
theorem test_drw_empty : (stepOn 0xD120 ((State.reset.setI 0x2000).setReg 0xF 1)).reg 0xF = 0 ∧
    (stepOn 0xD120 ((State.reset.setI 0x2000).setReg 0xF 1)).halted = false := by decide
theorem test_drw_out : record (stepOn 0xD12F (State.reset.setI 0xFF2)) = (true, 4, 0x200, 0x1000) := by decide

/-! ## Keypad and timers (section 2.7) -/

theorem test_skp : (stepOn 0xE19E ((withKey 0xA).setReg 1 0x0A)).pc = 0x204 ∧
    (stepOn 0xE19E ((withKey 0xB).setReg 1 0x0A)).pc = 0x202 := by decide
theorem test_skp_out : record (stepOn 0xE19E ((withKey 0xA).setReg 1 0x1A)) = (true, 5, 0x200, 0x001A) := by decide
theorem test_sknp : (stepOn 0xE1A1 ((withKey 0xA).setReg 1 0x0A)).pc = 0x202 ∧
    (stepOn 0xE1A1 ((withKey 0xB).setReg 1 0x0A)).pc = 0x204 := by decide
theorem test_sknp_out : record (stepOn 0xE1A1 ((withKey 0xF).setReg 1 0xFF)) = (true, 5, 0x200, 0x00FF) := by decide
theorem test_ldKey_waits : (stepOn 0xF10A (State.reset.setReg 1 0x55)).pc = 0x200 ∧
    (stepOn 0xF10A (State.reset.setReg 1 0x55)).reg 1 = 0x55 := by decide
-- With one key pressed the pick is that key, whatever the free value.
theorem test_ldKey_one : ∃ k, ((withKey 0xC).pickKey).map (·.1) = some k ∧ (withKey 0xC).pressedKeys = [0xC] :=
  ⟨_, rfl, by decide⟩
theorem test_ldFromDt : (stepOn 0xF107 ((State.reset.setDt 0x2A).setSt 9)).reg 1 = 0x2A := by decide
theorem test_ldDt : (stepOn 0xF115 (State.reset.setReg 1 0x3C)).dt = 0x3C ∧
    (stepOn 0xF115 (State.reset.setReg 1 0x3C)).st = 0 := by decide
theorem test_ldSt : (stepOn 0xF118 (State.reset.setReg 1 0x3C)).st = 0x3C ∧
    (stepOn 0xF118 (State.reset.setReg 1 0x3C)).tone = true := by decide

/-! ## Host events (Part 3) -/

theorem test_tick : (((State.reset.setDt 1).setSt 2).tick).dt = 0 ∧ (((State.reset.setDt 1).setSt 2).tick).st = 1 ∧
    State.reset.tick.dt = 0 ∧ ((State.reset.setSt 1).beepEdge) = true ∧ ((State.reset.setSt 2).beepEdge) = false := by
  decide
theorem test_tick_halted : ({ (State.reset.setDt 3).setSt 1 with halted := true } : State).tick.dt = 3 ∧
    ({ (State.reset.setDt 3).setSt 1 with halted := true } : State).beepEdge = false := by decide
theorem test_keySet_takeDirty : (State.reset.keySet 7 true).key 7 = true ∧ (State.reset.keySet 7 true).key 6 = false ∧
    ({ State.reset with dirty := true } : State).takeDirty.dirty = false := by decide
theorem test_load : ((State.reset.load [0x12, 0x00]).map (fun s => s.mem.readBlock 0x1FF 3)) = some [0x00, 0x12, 0x00] := by
  decide
theorem test_load_too_large : State.reset.load (List.replicate 3585 0xAA) = none := by
  exact if_pos (by rw [List.length_replicate]; decide)
theorem test_reset_event : ({ withKey 5 with halted := true, sp := 4, mem := [(0, 1)] } : State).resetEvent.key 5 = true ∧
    ({ withKey 5 with halted := true, sp := 4, mem := [(0, 1)] } : State).resetEvent.mem.read 0 = 0xF0 ∧
    ({ withKey 5 with halted := true, sp := 4, mem := [(0, 1)] } : State).resetEvent.sp = 0 := by decide

/-! ## Witnesses: states and operands that meet the hypotheses of the statements, clause by clause, at the boundaries -/

/-- A call stack with `n` entries in use. -/
def withSp (n : Fin 17) : State := { State.reset with sp := n }

/-- A halted core. -/
def haltedState : State := State.reset.raise (.unknownOpcode 0)

theorem witness_EncodeInvertsDecode : decodeWord 0x8AB6 = some (.shr 0xA 0xB) := by decide
theorem witness_DecoderFollowsTable : decodeWord 0xF065 = some (.ldRegs 0) := by decide
theorem witness_StepRunsDecodedInstruction :
    (withMem 0x200 [0x6A, 0x7F]).halted = false ∧ (withMem 0x200 [0x6A, 0x7F]).pc.toNat + 1 < 4096 ∧
    decode [(withMem 0x200 [0x6A, 0x7F]).mem.read 0x200, (withMem 0x200 [0x6A, 0x7F]).mem.read 0x201] =
      .instr (.ldImm 0xA 0x7F) [] := by decide
theorem witness_UnknownOpcodeFaults : State.reset.halted = false ∧ State.reset.pc.toNat + 1 < 4096 ∧
    decodeWord (State.reset.mem.readWord State.reset.pc.toNat) = none := by decide
theorem witness_FetchOutOfRangeFaults :
    ((State.reset.setPc 0xFFF).halted = false ∧ 4095 ≤ (State.reset.setPc 0xFFF).pc.toNat) ∧
    ((State.reset.setPc 0x10FE).halted = false ∧ 4096 ≤ (State.reset.setPc 0x10FE).pc.toNat) := by decide
theorem witness_HaltedStepChangesNothing : haltedState.halted = true := rfl
theorem witness_PlacedWordRuns : decodeTableWord 16 0x00EE = some .ret ∧ decodeTableWord 16 0x1FFF = some (.jp 0xFFF) := by
  decide
theorem witness_FaultEntryChangesOnlyTheRecord : State.reset.halted = false ∧
    ∃ t, step State.reset = .next t ∧ t.halted = true := ⟨rfl, _, rfl, rfl⟩
-- One faulting step for each condition: the call, the return, the fetch, the bytes at I at their boundary, the key index.
theorem witness_FaultEntry_conditions :
    ((withSp 16).withFetchWord 16 0x2ABC).fetch = .run (.call 0xABC) ∧
    (State.reset.withFetchWord 16 0x00EE).fetch = .run .ret ∧
    ((State.reset.setPc 0xFFF).halted = false ∧ 4095 ≤ (State.reset.setPc 0xFFF).pc.toNat) ∧
    (((State.reset.setI 0xFF2).withFetchWord 16 0xD12F).fetch = .run (.drw 1 2 0xF) ∧
      4096 < (State.reset.setI 0xFF2).i.toNat + bytesAtI (.drw 1 2 0xF)) ∧
    ((State.reset.setReg 1 16).withFetchWord 16 0xE19E).fetch = .run (.skp 1) := by decide
theorem witness_EachInstructionRaisesOnlyItsFault : State.reset.halted = false ∧
    (∃ t, exec .ret State.reset = .next t ∧ t.halted = true) ∧
    (∃ t, exec (.call 0) (withSp 16) = .next t ∧ t.halted = true) ∧
    (∃ t, exec (.skp 0) (State.reset.setReg 0 16) = .next t ∧ t.halted = true) ∧
    (∃ t, exec (.drw 0 0 1) (State.reset.setI 0x1000) = .next t ∧ t.halted = true) :=
  ⟨rfl, ⟨_, rfl, rfl⟩, ⟨_, rfl, rfl⟩, ⟨_, rfl, rfl⟩, ⟨_, rfl, rfl⟩⟩
theorem witness_CallPushesReturnAddress : (withSp 0).sp.val < 16 ∧ (withSp 15).sp.val < 16 := by decide
theorem witness_CallOverflowFaults : (withSp 16).sp.val = 16 := rfl
theorem witness_ReturnPopsEntry : 0 < (withSp 1).sp.val ∧ 0 < (withSp 16).sp.val ∧ (withSp 0).sp.val = 0 := by decide
theorem witness_CallThenReturnRoundTrip : (withSp 15).sp.val < 16 ∧
    ∃ t t' : State, exec (.call 0x300) (withSp 15) = .next t ∧ t'.stack = t.stack ∧ t'.sp = t.sp :=
  ⟨by decide, _, _, rfl, rfl, rfl⟩
theorem witness_AddSubtractShift_other_register : (0x0 : RegId) ≠ 0xF ∧ (0xE : RegId) ≠ 0xF := by decide
theorem witness_RandomMasksFreeByte : (0x0F : Byte).getLsbD 4 = false := by decide
theorem witness_BcdStoresDigits : (State.reset.setI 0xFFD).i.toNat + 2 < 4096 ∧
    4096 ≤ (State.reset.setI 0xFFE).i.toNat + 2 ∧ 4096 ≤ (State.reset.setI 0xFFFF).i.toNat + 2 := by decide
theorem witness_StoreLoadRegisters : (State.reset.setI 0xFF0).i.toNat + (0xF : RegId).toNat < 4096 ∧
    4096 ≤ (State.reset.setI 0xFF1).i.toNat + (0xF : RegId).toNat ∧
    (State.reset.setI 0xFFF).i.toNat + (0x0 : RegId).toNat < 4096 := by decide
theorem witness_SpillThenFillRoundTrip : (State.reset.setI 0xFF0).i.toNat + (0xF : RegId).toNat < 4096 ∧
    ∃ t t' : State, exec (.stRegs 0xF) (State.reset.setI 0xFF0) = .next t ∧ t'.mem = t.mem ∧ t'.i = 0xFF0 :=
  ⟨by decide, _, State.setI (after (exec (.stRegs 0xF) (State.reset.setI 0xFF0))) 0xFF0, rfl, rfl, rfl⟩
-- Program P7: V0 = 0x12, V1 = 0x0C stored over the next instruction.
theorem witness_StoreIsSeenByNextFetch : (((State.reset.setI 0x202).setReg 0 0x12).setReg 1 0x0C).halted = false ∧
    1 ≤ (1 : RegId).toNat ∧
    (((State.reset.setI 0x202).setReg 0 0x12).setReg 1 0x0C).i = (((State.reset.setI 0x202).setReg 0 0x12).setReg 1 0x0C).pc + 2 ∧
    (((State.reset.setI 0x202).setReg 0 0x12).setReg 1 0x0C).pc.toNat + 2 + (1 : RegId).toNat < 4096 ∧
    decode [(((State.reset.setI 0x202).setReg 0 0x12).setReg 1 0x0C).reg 0,
      (((State.reset.setI 0x202).setReg 0 0x12).setReg 1 0x0C).reg 1] = .instr (.jp 0x20C) [] := by decide
theorem witness_DrawXorsSprite : ((0 : Nibble) = 0 ∨ (State.reset.setI 0x2000).i.toNat + (0 : Nibble).toNat ≤ 4096) ∧
    ((0xF : Nibble) = 0 ∨ (State.reset.setI 0xFF1).i.toNat + (0xF : Nibble).toNat ≤ 4096) := by decide
-- A sprite with a 1 bit at (0, 0): bit 7 of the font's first byte, 0xF0.
theorem witness_spriteOn : State.reset.spriteOn 0 0 1 0 0 ∧ ¬ State.reset.spriteOn 0 0 0 0 0 :=
  ⟨⟨0, 0, by decide⟩, fun ⟨_, _, h, _⟩ => absurd h (Nat.not_lt_zero _)⟩
theorem witness_DrawXorsSprite_collision :
    ∃ s : State, s.spriteOn 0 0 1 0 0 ∧ s.grid.pixel 0 0 = true :=
  ⟨{ State.reset with grid := State.reset.grid.flip 0 0 }, ⟨0, 0, by decide⟩, by decide⟩
theorem witness_DrawOutOfRangeFaults : (0xF : Nibble) ≠ 0 ∧ 4096 < (State.reset.setI 0xFF2).i.toNat + (0xF : Nibble).toNat ∧
    4096 < (State.reset.setI 0x1000).i.toNat + (1 : Nibble).toNat := by decide
theorem witness_DrawTwiceRestoresGrid : ((5 : Nibble) = 0 ∨ State.reset.i.toNat + (5 : Nibble).toNat ≤ 4096) ∧
    ∃ t t' : State, exec (.drw 0 1 5) State.reset = .next t ∧ t'.grid = t.grid ∧ t'.mem = State.reset.mem ∧
      t'.i = State.reset.i ∧ t'.reg 0 = State.reset.reg 0 ∧ t'.reg 1 = State.reset.reg 1 :=
  ⟨by decide, _, { State.reset with grid := (after (exec (.drw 0 1 5) State.reset)).grid }, rfl, rfl, rfl, rfl, rfl, rfl⟩
theorem witness_SkipOnKey : ((State.reset.setReg 3 15).reg 3).toNat = (15 : KeyId).toNat ∧
    (State.reset.reg 3).toNat = (0 : KeyId).toNat := by decide
theorem witness_KeyIndexFaults : 15 < ((State.reset.setReg 3 16).reg 3).toNat ∧ 15 < ((State.reset.setReg 3 255).reg 3).toNat := by
  decide
theorem witness_WaitForKey : (∃ k, (withKey 0xF).key k = true) ∧ (∀ k, State.reset.key k = false) :=
  ⟨⟨0xF, by decide⟩, by decide⟩
theorem witness_TickCountsDown : haltedState.halted = true ∧ State.reset.halted = false := ⟨rfl, rfl⟩
theorem witness_LoadPlacesRomOrRefuses : System.powerOn.phase = .boot ∧
    3584 < (List.replicate 3585 (0xAA : Byte)).length ∧ (List.replicate 3584 (0xAA : Byte)).length ≤ 3584 := by
  rw [List.length_replicate, List.length_replicate]; decide
theorem witness_LoadOnlyInBootPhase : (System.mk State.reset .running).phase = .running ∧
    (∃ z a, System.powerOn.event .step = some (z, a)) ∧ (∃ z a, System.powerOn.event .tick = some (z, a)) ∧
    ∃ z a, System.powerOn.event (.load []) = some (z, a) := ⟨rfl, ⟨_, _, rfl⟩, ⟨_, _, rfl⟩, ⟨_, _, rfl⟩⟩
theorem witness_ResetValues : 0x050 ≤ 0x200 := by decide
theorem reset_inv : State.reset.Inv :=
  ⟨⟨List.Pairwise.nil, fun _ h => absurd h List.not_mem_nil⟩, by decide, fun j h => absurd h (Nat.not_lt_zero _), by
    unfold State.recordOk; decide⟩
theorem witness_StepKeepsInvariant : State.reset.Inv ∧ ∃ t, step State.reset = .next t := ⟨reset_inv, _, rfl⟩
theorem witness_EveryEventKeepsInvariant : System.powerOn.state.Inv ∧
    ∃ z, System.powerOn.run [.load [0x12, 0x00], .step, .tick, .keySet 3 true, .takeDirty, .step, .reset] = some z :=
  ⟨reset_inv, _, rfl⟩
theorem witness_OnlyDestinationsChange : (∃ t, exec (.ldImm 0 1) State.reset = .next t) ∧
    (1 : RegId) ∉ destinations (.ldImm 0 1) := ⟨⟨_, rfl⟩, by decide⟩
theorem witness_steps_of_the_whole_machine : ∃ t, step (withMem 0x200 [0x00, 0xE0]) = .next t := ⟨_, rfl⟩
theorem witness_PcAfterInstruction :
    (State.reset.halted = false ∧ ∃ t, exec .ret State.reset = .next t ∧ t.halted = true) ∧
    ∃ t, exec .cls State.reset = .next t ∧ t.halted = false ∧ isControl .cls = false :=
  ⟨⟨rfl, _, rfl, rfl⟩, _, rfl, rfl, rfl⟩
theorem witness_SelfJumpIsFixedPoint : (withMem 0x200 [0x12, 0x00]).finished := ⟨0x200, by decide, by decide⟩

end Sys2Proof.Tests
end

/-! Proofs of the statements on control transfer (`40_flow.md`): the jump and the four compare-and-skip instructions. -/

namespace Sys2Proof.Machine

/-! ### The frame and the target of a move of `pc` -/

/-- Setting `pc` changes `pc` only. -/
theorem State.setPc_frame (s : State) (w : Word) : Frame s (s.setPc w) [] [.pc] where
  regs_same _ _ := rfl
  parts_same p hp := by
    cases p
    case pc => exact absurd (List.mem_singleton_self _) hp
    all_goals simp [Part.Same]
  mem_same _ _ := rfl

/-- A skip, taken or not, changes `pc` only. -/
theorem State.skipIf_frame (s : State) (c : Bool) : Frame s (s.skipIf c) [] [.pc] :=
  s.setPc_frame _

/-- A 12-bit address keeps its value as a word (R102). -/
@[simp] theorem toNat_zextNNN (nnn : Addr12) : (zextNNN nnn).toNat = nnn.toNat :=
  BitVec.toNat_setWidth_of_le (by decide)

/-! ### One equation per instruction -/

theorem exec_jp (nnn : Addr12) (s : State) : exec (.jp nnn) s = .next (s.setPc (zextNNN nnn)) := rfl

theorem exec_seImm (x : RegId) (nn : Byte) (s : State) :
    exec (.seImm x nn) s = .next (s.skipIf (s.reg x == nn)) := rfl

theorem exec_sneImm (x : RegId) (nn : Byte) (s : State) :
    exec (.sneImm x nn) s = .next (s.skipIf (s.reg x != nn)) := rfl

theorem exec_seReg (x y : RegId) (s : State) :
    exec (.seReg x y) s = .next (s.skipIf (s.reg x == s.reg y)) := rfl

theorem exec_sneReg (x y : RegId) (s : State) :
    exec (.sneReg x y) s = .next (s.skipIf (s.reg x != s.reg y)) := rfl

/-- An instruction whose meaning is a skip on a test completes, branches by the condition the test decides, and changes
nothing but `pc` (R26, R100). -/
theorem exec_skipIf_spec {i : Instr} {s : State} {c : Bool} {P : Prop} [Decidable P]
    (hexec : exec i s = .next (s.skipIf c)) (htest : c = true ↔ P) :
    ∃ t, exec i s = .next t ∧ t.pc = (if P then s.pc + 4 else s.pc + 2) ∧ Frame s t [] [.pc] := by
  have hpc : (s.skipIf c).pc = if P then s.pc + 4 else s.pc + 2 := by
    rw [State.skipIf_pc]
    exact if_congr htest rfl rfl
  exact ⟨s.skipIf c, hexec, hpc, s.skipIf_frame c⟩

/-! ### The statements -/

/-- Settles O14: both are skips, on the test `VX = NN` and on its negation. -/
theorem skipOnImmediate : Obligations.SkipOnImmediate := fun x nn s =>
  ⟨exec_skipIf_spec (exec_seImm x nn s) beq_iff_eq, exec_skipIf_spec (exec_sneImm x nn s) bne_iff_ne⟩

/-- Settles O15: both are skips, on the test `VX = VY` and on its negation. -/
theorem skipOnRegisters : Obligations.SkipOnRegisters := fun x y s =>
  ⟨exec_skipIf_spec (exec_seReg x y s) beq_iff_eq, exec_skipIf_spec (exec_sneReg x y s) bne_iff_ne⟩

/-- Settles O16: the target is NNN zero-extended, whose value is that of NNN. -/
theorem jumpSetsPc : Obligations.JumpSetsPc := fun nnn s =>
  ⟨s.setPc (zextNNN nnn), exec_jp nnn s, toNat_zextNNN nnn, s.setPc_frame _⟩

end Sys2Proof.Machine

/-! Proofs of the statements on additions (`41_alu.md`): `7XNN` and `8XY4`. -/

namespace Sys2Proof.Machine

/-! ### Frames compose -/

theorem Part.Same.trans {s t u : State} {p : Part} (hst : p.Same s t) (htu : p.Same t u) : p.Same s u := by
  cases p <;> simp_all [Part.Same]

/-- What two moves in a row change is what the one or the other changes. -/
theorem Frame.trans {s t u : State} {regs₁ regs₂ : List RegId} {parts₁ parts₂ : List Part} {bytes : Nat × Nat}
    (hst : Frame s t regs₁ parts₁ bytes) (htu : Frame t u regs₂ parts₂ bytes) :
    Frame s u (regs₁ ++ regs₂) (parts₁ ++ parts₂) bytes where
  regs_same x hx := by
    obtain ⟨hx₁, hx₂⟩ := not_or.mp (mt List.mem_append.mpr hx)
    exact (htu.regs_same x hx₂).trans (hst.regs_same x hx₁)
  parts_same p hp := by
    obtain ⟨hp₁, hp₂⟩ := not_or.mp (mt List.mem_append.mpr hp)
    exact (hst.parts_same p hp₁).trans (htu.parts_same p hp₂)
  mem_same a ha := (htu.mem_same a ha).trans (hst.mem_same a ha)

/-! ### The frames of the register writes -/

/-- A register write changes that register only. -/
theorem State.setReg_frame (s : State) (x : RegId) (b : Byte) : Frame s (s.setReg x b) [x] [] where
  regs_same _ hy := s.reg_setReg_ne b (mt List.mem_singleton.mpr hy)
  parts_same p _ := by cases p <;> simp [Part.Same]
  mem_same _ _ := rfl

/-- A result and its flag change VX and VF only (R22, R23). -/
theorem State.setResultFlag_frame (s : State) (x : RegId) (r f : Byte) :
    Frame s (s.setResultFlag x r f) [x, vf] [] :=
  (s.setReg_frame x r).trans ((s.setReg x r).setReg_frame vf f)

/-- The default move of `pc` adds `pc` to what an instruction changes (R26). -/
theorem Frame.advance {s t : State} {regs : List RegId} (h : Frame s t regs []) : Frame s t.advance regs [.pc] := by
  simpa [State.advance] using h.trans (t.setPc_frame (t.pc + 2))

/-! ### The result and the flag, read back (R23) -/

theorem State.reg_vf_setResultFlag (s : State) (x : RegId) (r f : Byte) : (s.setResultFlag x r f).reg vf = f := by
  simp [State.reg_setResultFlag]

theorem State.reg_setResultFlag_of_ne_vf (s : State) {x : RegId} (r f : Byte) (hx : x ≠ vf) :
    (s.setResultFlag x r f).reg x = r := by
  simp [State.reg_setResultFlag, hx]

theorem carryFlag_eq (a b : Byte) : carryFlag a b = if a.toNat + b.toNat > 255 then 1 else 0 := by
  simp [carryFlag, flagByte]

/-! ### One equation per instruction -/

theorem exec_addImm (x : RegId) (nn : Byte) (s : State) :
    exec (.addImm x nn) s = .next (s.setReg x (s.reg x + nn)).advance := rfl

theorem exec_addReg (x y : RegId) (s : State) :
    exec (.addReg x y) s =
      .next (s.setResultFlag x (s.reg x + s.reg y) (carryFlag (s.reg x) (s.reg y))).advance := rfl

/-! ### The statements -/

/-- Settles O25: VX holds the sum of the bytes, which wraps, and VF, written last, the carry of the old values. -/
theorem addSetsCarry : Obligations.AddSetsCarry := by
  intro x y s
  refine ⟨_, exec_addReg x y s, ?sum, ?carry, rfl, (s.setResultFlag_frame x _ _).advance⟩
  case sum =>
    intro hx
    rw [State.advance_reg, s.reg_setResultFlag_of_ne_vf _ _ hx]
    exact BitVec.toNat_add _ _
  case carry =>
    rw [State.advance_reg, ← carryFlag_eq]
    exact s.reg_vf_setResultFlag x _ _

/-- Settles O23: VX holds the sum of the bytes, which wraps; it is the only register written. -/
theorem addImmediateWraps : Obligations.AddImmediateWraps := by
  intro x nn s
  refine ⟨_, exec_addImm x nn s, ?sum, rfl, (s.setReg_frame x _).advance⟩
  case sum =>
    rw [State.advance_reg, State.reg_setReg_self]
    exact BitVec.toNat_add _ _

end Sys2Proof.Machine

/-! Proof of the statement on the load of the index register (`42_index_memory.md`): `ANNN`. -/

namespace Sys2Proof.Machine

/-- Setting I changes I only. -/
theorem State.setI_frame (s : State) (w : Word) : Frame s (s.setI w) [] [.index] where
  regs_same x _ := s.setI_reg w x
  parts_same p hp := by
    cases p
    case index => exact absurd (List.mem_singleton_self _) hp
    all_goals simp [Part.Same]
  mem_same _ _ := rfl

/-- An instruction that sets I and moves on changes I and `pc` only (R26). -/
theorem State.setI_advance_frame (s : State) (w : Word) : Frame s (s.setI w).advance [] [.index, .pc] :=
  (s.setI_frame w).trans ((s.setI w).setPc_frame _)

theorem exec_ldI (nnn : Addr12) (s : State) : exec (.ldI nnn) s = .next (s.setI (zextNNN nnn)).advance := rfl

/-- Settles O29: I is NNN zero-extended, whose value is that of NNN. -/
theorem loadIndexImmediate : Obligations.LoadIndexImmediate := fun nnn s =>
  ⟨(s.setI (zextNNN nnn)).advance, exec_ldI nnn s, toNat_zextNNN nnn, rfl, s.setI_advance_frame _⟩

end Sys2Proof.Machine

/-! Proof of the statement on the clear of the display (`43_display.md`): `00E0`. -/

namespace Sys2Proof.Machine

/-- Clearing the display changes the display only (R229). -/
theorem State.displayClear_frame (s : State) : Frame s s.displayClear [] [.display] where
  regs_same _ _ := rfl
  parts_same p hp := by
    cases p
    case display => exact absurd (List.mem_singleton_self _) hp
    all_goals simp [Part.Same]
  mem_same _ _ := rfl

/-- `00E0` moves on after the clear, so it changes the display and `pc` only (R26, R170). -/
theorem State.displayClear_advance_frame (s : State) : Frame s s.displayClear.advance [] [.display, .pc] :=
  s.displayClear_frame.trans (s.displayClear.setPc_frame _)

theorem exec_cls (s : State) : exec .cls s = .next s.displayClear.advance := rfl

/-- Settles O36: the grid after the clear is the blank one, and `dirty` is set whatever the grid was. -/
theorem clearBlanksDisplay : Obligations.ClearBlanksDisplay := fun s =>
  ⟨s.displayClear.advance, exec_cls s, Grid.pixel_blank, rfl, rfl, s.displayClear_advance_frame⟩

end Sys2Proof.Machine

/-! Proofs of the statements on the host's events (`60_exceptions.md`): `Load`, `TakeDirty` and `KeySet`. -/

namespace Sys2Proof.Machine

/-! ### A block written to memory, and a `Load` -/

/-- Byte `k` of a block stands at `a + k` once the block is written from `a` upward (R67). -/
theorem Memory.read_writeBlock_inside (m : Memory) (a : Nat) {bs : List Byte} {k : Nat} (hk : k < bs.length) :
    (m.writeBlock a bs).read (a + k) = bs[k] := by
  have hin : a ≤ a + k ∧ a + k < a + bs.length := by omega
  rw [Memory.read_writeBlock, if_pos hin, Nat.add_sub_cancel_left, List.getD_eq_getElem bs 0 hk]

/-- Writing a block to memory changes the bytes of the block only. -/
theorem State.writeBlock_frame (s : State) (a : Nat) (bs : List Byte) :
    Frame s { s with mem := s.mem.writeBlock a bs } [] [] (a, bs.length) where
  regs_same _ _ := rfl
  parts_same p _ := by cases p <;> simp [Part.Same]
  mem_same _ ha := s.mem.read_writeBlock_outside ha

theorem State.load_of_too_large (s : State) {rom : List Byte} (h : 3584 < rom.length) : s.load rom = none :=
  if_pos h

theorem State.load_of_fits (s : State) {rom : List Byte} (h : rom.length ≤ 3584) :
    s.load rom = some { s with mem := s.mem.writeBlock 0x200 rom } :=
  if_neg (Nat.not_lt.mpr h)

/-- In the boot phase a `Load` that finds the image too large leaves the whole machine as it was (R216, R253). -/
theorem System.event_load_refused {y : System} {rom : List Byte} (hboot : y.phase = .boot)
    (hload : y.state.load rom = none) : y.event (.load rom) = some (y, .romTooLarge) := by
  simp only [System.event, hboot, hload]

/-- In the boot phase a `Load` that fits is accepted, and the phase stays open (R252, R253). -/
theorem System.event_load_accepted {y : System} {rom : List Byte} {t : State} (hboot : y.phase = .boot)
    (hload : y.state.load rom = some t) : y.event (.load rom) = some (⟨t, .boot⟩, .loaded) := by
  simp only [System.event, hboot, hload]

/-- Settles O47: the image's length decides between the refusal and one block write at 0x200. -/
theorem loadPlacesRomOrRefuses : Obligations.LoadPlacesRomOrRefuses := by
  intro y rom hboot
  refine ⟨fun hlarge => ?refused, fun hfits => ?accepted⟩
  case refused => exact System.event_load_refused hboot (y.state.load_of_too_large hlarge)
  case accepted =>
    exact ⟨_, System.event_load_accepted hboot (y.state.load_of_fits hfits),
      fun _ hk => y.state.mem.read_writeBlock_inside 0x200 hk, y.state.writeBlock_frame 0x200 rom⟩

/-! ### An event of one part of the state -/

/-- A move that keeps the registers, memory and every part but one changes that part only. -/
theorem Frame.of_part {s t : State} {p : Part} (hv : t.v = s.v) (hmem : t.mem = s.mem)
    (hparts : ∀ q, q ≠ p → q.Same s t) : Frame s t [] [p] where
  regs_same x _ := by rw [State.reg, State.reg, hv]
  parts_same q hq := hparts q (mt List.mem_singleton.mpr hq)
  mem_same a _ := by rw [hmem]

/-! ### `TakeDirty` -/

/-- Clearing the dirty flag changes the display only (R231). -/
theorem State.takeDirty_frame (s : State) : Frame s s.takeDirty [] [.display] :=
  Frame.of_part rfl rfl fun q hq => by cases q <;> simp_all [Part.Same]

theorem System.event_takeDirty (y : System) :
    y.event .takeDirty = some (⟨y.state.takeDirty, y.phase⟩, .dirty y.state.dirty) := rfl

/-- Settles O45: the answer is the flag before the clear, and the clear keeps the grid. -/
theorem takeDirtyAnswersAndClears : Obligations.TakeDirtyAnswersAndClears := fun y =>
  ⟨_, y.event_takeDirty, y.state.takeDirty_dirty, y.state.takeDirty_grid, y.state.takeDirty_frame⟩

/-! ### `KeySet` -/

/-- After a `KeySet` the key it names has the new flag, and every other key its old one (R233). -/
theorem State.key_keySet (s : State) (k j : KeyId) (b : Bool) :
    (s.keySet k b).key j = if j = k then b else s.key j := by
  have hsame : k.toNat = j.toNat ↔ j = k := by rw [BitVec.toNat_inj, eq_comm]
  calc (s.keySet k b).key j
      _ = if k.toNat = j.toNat then b else s.key j := Vector.getElem_set k.isLt j.isLt
      _ = if j = k then b else s.key j := if_congr hsame rfl rfl

/-- Setting a key's flag changes the key flags only (R233). -/
theorem State.keySet_frame (s : State) (k : KeyId) (b : Bool) : Frame s (s.keySet k b) [] [.keys] :=
  Frame.of_part rfl rfl fun q hq => by cases q <;> simp_all [Part.Same]

theorem System.event_keySet (y : System) (k : KeyId) (b : Bool) :
    y.event (.keySet k b) = some (⟨y.state.keySet k b, y.phase⟩, .silent) := rfl

/-- Settles O46: the event is one write to the key flags. -/
theorem keySetChangesOneKey : Obligations.KeySetChangesOneKey := fun y k b =>
  ⟨_, .silent, y.event_keySet k b, fun j => y.state.key_keySet k j b, y.state.keySet_frame k b⟩

end Sys2Proof.Machine

/-! Proofs of the statements on encodings (`30_encoding.md`): the decoder and the encoder invert each other, and both
agree with the match and mask table of R85. -/

namespace Sys2Proof

/-! ### Decoding an encoding -/

/-- The encoding of an instruction decodes to it (R82, R84, R85): the family, and where it is not enough the low nibble
or the low byte, is the one the decoder tests for, and each operand is the field it was packed into. -/
theorem decodeWord_encode (i : Instr) : decodeWord (encode i) = some i := by
  cases i with
  | cls | ret => decide
  | jp | call | ldI | jpV0 => simp [encode, decodeWord]
  | seImm | sneImm | ldImm | addImm | rnd => simp [encode, decodeWord]
  | seReg | sneReg | drw => simp [encode, decodeWord]
  | ldReg | orReg | andReg | xorReg | addReg | subReg | shr | subnReg | shl =>
    simp [encode, decodeWord, decodeFamily8]
  | skp | sknp => simp [encode, decodeWord, decodeFamilyE]
  | ldFromDt | ldKey | ldDt | ldSt | addI | ldFont | ldBcd | stRegs | ldRegs =>
    simp [encode, decodeWord, decodeFamilyF]

/-- Settles O1: the bytes of an instruction are those of its encoding, which decodes to it. -/
theorem decodeInvertsEncode : Obligations.DecodeInvertsEncode := by
  intro i rest
  rw [encodeBytes, decode_bytesOfWord, decodeWord_encode]

/-! ### Encoding what was decoded -/

section
variable {op : Word} {f : Nibble}

theorem packNNN_of_family (hf : opFamily op = f) : packNNN f (opNNN op) = op := by
  rw [← hf, packNNN_fields]

theorem packXNN_of_family (hf : opFamily op = f) : packXNN f (opX op) (opNN op) = op := by
  rw [← hf, packXNN_fields]

theorem packXNN_of_family_low {nn : Byte} (hf : opFamily op = f) (hnn : opNN op = nn) :
    packXNN f (opX op) nn = op := by
  rw [← hnn, packXNN_of_family hf]

theorem packXYN_of_family (hf : opFamily op = f) : packXYN f (opX op) (opY op) (opN op) = op := by
  rw [← hf, packXYN_fields]

theorem packXYN_of_family_low {n : Nibble} (hf : opFamily op = f) (hn : opN op = n) :
    packXYN f (opX op) (opY op) n = op := by
  rw [← hn, packXYN_of_family hf]

end

theorem encode_of_decodeFamily0 {op : Word} {i : Instr} (h : decodeFamily0 op = some i) : encode i = op := by
  unfold decodeFamily0 at h
  split_ifs at h with h0 h1 <;> cases h
  · exact h0.symm
  · exact h1.symm

theorem encode_of_decodeFamily8 {op : Word} {i : Instr} (hf : opFamily op = 0x8) (h : decodeFamily8 op = some i) :
    encode i = op := by
  unfold decodeFamily8 at h
  split_ifs at h with hn hn hn hn hn hn hn hn hn <;> cases h <;> exact packXYN_of_family_low hf hn

theorem encode_of_decodeFamilyE {op : Word} {i : Instr} (hf : opFamily op = 0xE) (h : decodeFamilyE op = some i) :
    encode i = op := by
  unfold decodeFamilyE at h
  split_ifs at h with hnn hnn <;> cases h <;> exact packXNN_of_family_low hf hnn

theorem encode_of_decodeFamilyF {op : Word} {i : Instr} (hf : opFamily op = 0xF) (h : decodeFamilyF op = some i) :
    encode i = op := by
  unfold decodeFamilyF at h
  split_ifs at h with hnn hnn hnn hnn hnn hnn hnn hnn hnn <;> cases h <;> exact packXNN_of_family_low hf hnn

/-- A family is one of the 16 hex digits (R81, R84). -/
theorem nibble_cases (f : Nibble) :
    f = 0x0 ∨ f = 0x1 ∨ f = 0x2 ∨ f = 0x3 ∨ f = 0x4 ∨ f = 0x5 ∨ f = 0x6 ∨ f = 0x7 ∨
    f = 0x8 ∨ f = 0x9 ∨ f = 0xA ∨ f = 0xB ∨ f = 0xC ∨ f = 0xD ∨ f = 0xE ∨ f = 0xF := by
  decide +revert

/-- Settles O2: each branch of the decoder knows the family, and the low nibble or byte it tested, of the word whose
fields it packs. -/
theorem encodeInvertsDecode : Obligations.EncodeInvertsDecode := by
  intro op i h
  rcases nibble_cases (opFamily op) with
    hf | hf | hf | hf | hf | hf | hf | hf | hf | hf | hf | hf | hf | hf | hf | hf <;>
    simp only [decodeWord, hf, reduceIte, BitVec.reduceEq, Option.ite_none_right_eq_some, Option.some.injEq] at h
  · exact encode_of_decodeFamily0 h
  · exact h ▸ packNNN_of_family hf
  · exact h ▸ packNNN_of_family hf
  · exact h ▸ packXNN_of_family hf
  · exact h ▸ packXNN_of_family hf
  · exact h.2 ▸ packXYN_of_family_low hf h.1
  · exact h ▸ packXNN_of_family hf
  · exact h ▸ packXNN_of_family hf
  · exact encode_of_decodeFamily8 hf h
  · exact h.2 ▸ packXYN_of_family_low hf h.1
  · exact h ▸ packNNN_of_family hf
  · exact h ▸ packNNN_of_family hf
  · exact h ▸ packXNN_of_family hf
  · exact h ▸ packXYN_of_family hf
  · exact encode_of_decodeFamilyE hf h
  · exact encode_of_decodeFamilyF hf h

/-! ### The table selects exactly the encodings -/

/-- The row that bears an instruction's mnemonic selects the instruction's encoding (R85). -/
theorem encode_selected : ∀ i : Instr, Laws.RowOfTable.Statement i
  | .cls => Laws.RowOfTable.cls
  | .ret => Laws.RowOfTable.ret
  | .jp nnn => Laws.RowOfTable.jp nnn
  | .call nnn => Laws.RowOfTable.call nnn
  | .seImm x nn => Laws.RowOfTable.seImm x nn
  | .sneImm x nn => Laws.RowOfTable.sneImm x nn
  | .seReg x y => Laws.RowOfTable.seReg x y
  | .ldImm x nn => Laws.RowOfTable.ldImm x nn
  | .addImm x nn => Laws.RowOfTable.addImm x nn
  | .ldReg x y => Laws.RowOfTable.ldReg x y
  | .orReg x y => Laws.RowOfTable.orReg x y
  | .andReg x y => Laws.RowOfTable.andReg x y
  | .xorReg x y => Laws.RowOfTable.xorReg x y
  | .addReg x y => Laws.RowOfTable.addReg x y
  | .subReg x y => Laws.RowOfTable.subReg x y
  | .shr x y => Laws.RowOfTable.shr x y
  | .subnReg x y => Laws.RowOfTable.subnReg x y
  | .shl x y => Laws.RowOfTable.shl x y
  | .sneReg x y => Laws.RowOfTable.sneReg x y
  | .ldI nnn => Laws.RowOfTable.ldI nnn
  | .jpV0 nnn => Laws.RowOfTable.jpV0 nnn
  | .rnd x nn => Laws.RowOfTable.rnd x nn
  | .drw x y n => Laws.RowOfTable.drw x y n
  | .skp x => Laws.RowOfTable.skp x
  | .sknp x => Laws.RowOfTable.sknp x
  | .ldFromDt x => Laws.RowOfTable.ldFromDt x
  | .ldKey x => Laws.RowOfTable.ldKey x
  | .ldDt x => Laws.RowOfTable.ldDt x
  | .ldSt x => Laws.RowOfTable.ldSt x
  | .addI x => Laws.RowOfTable.addI x
  | .ldFont x => Laws.RowOfTable.ldFont x
  | .ldBcd x => Laws.RowOfTable.ldBcd x
  | .stRegs x => Laws.RowOfTable.stRegs x
  | .ldRegs x => Laws.RowOfTable.ldRegs x

section
variable {op p k : Word} {m : String}

theorem and_mask_of_selects (h : (OpcodeRow.mk m p k).selects op = true) : op &&& k = p := eq_of_beq h

theorem eq_of_selects_all (h : (OpcodeRow.mk m p 0xFFFF).selects op = true) : p = op := by
  rw [← and_mask_of_selects h]
  exact BitVec.and_allOnes

/-! A field that the mask of a row keeps is the same in every word the row selects: that of the row's pattern. -/

theorem opFamily_of_selects (h : (OpcodeRow.mk m p 0xF000).selects op = true) : opFamily op = opFamily p := by
  rw [← and_mask_of_selects h, ← packNNN_fields op, packNNN_mask, opFamily_packNNN, opFamily_packNNN]

theorem opFamily_of_selects_low_nibble (h : (OpcodeRow.mk m p 0xF00F).selects op = true) :
    opFamily op = opFamily p := by
  rw [← and_mask_of_selects h, ← packXYN_fields op, packXYN_mask_low, opFamily_packXYN, opFamily_packXYN]

theorem opN_of_selects_low_nibble (h : (OpcodeRow.mk m p 0xF00F).selects op = true) : opN op = opN p := by
  rw [← and_mask_of_selects h, ← packXYN_fields op, packXYN_mask_low, opN_packXYN, opN_packXYN]

theorem opFamily_of_selects_low_byte (h : (OpcodeRow.mk m p 0xF0FF).selects op = true) :
    opFamily op = opFamily p := by
  rw [← and_mask_of_selects h, ← packXNN_fields op, packXNN_mask_low, opFamily_packXNN, opFamily_packXNN]

theorem opNN_of_selects_low_byte (h : (OpcodeRow.mk m p 0xF0FF).selects op = true) : opNN op = opNN p := by
  rw [← and_mask_of_selects h, ← packXNN_fields op, packXNN_mask_low, opNN_packXNN, opNN_packXNN]

/-! So the word is its own operands, packed with the fixed fields of the pattern. -/

variable {f n : Nibble} {nn : Byte}

theorem packNNN_of_selects (h : (OpcodeRow.mk m p 0xF000).selects op = true) (hf : opFamily p = f := by decide) :
    packNNN f (opNNN op) = op :=
  packNNN_of_family ((opFamily_of_selects h).trans hf)

theorem packXNN_of_selects (h : (OpcodeRow.mk m p 0xF000).selects op = true) (hf : opFamily p = f := by decide) :
    packXNN f (opX op) (opNN op) = op :=
  packXNN_of_family ((opFamily_of_selects h).trans hf)

theorem packXYN_of_selects (h : (OpcodeRow.mk m p 0xF000).selects op = true) (hf : opFamily p = f := by decide) :
    packXYN f (opX op) (opY op) (opN op) = op :=
  packXYN_of_family ((opFamily_of_selects h).trans hf)

theorem packXYN_of_selects_low (h : (OpcodeRow.mk m p 0xF00F).selects op = true) (hf : opFamily p = f := by decide)
    (hn : opN p = n := by decide) : packXYN f (opX op) (opY op) n = op :=
  packXYN_of_family_low ((opFamily_of_selects_low_nibble h).trans hf) ((opN_of_selects_low_nibble h).trans hn)

theorem packXNN_of_selects_low (h : (OpcodeRow.mk m p 0xF0FF).selects op = true) (hf : opFamily p = f := by decide)
    (hnn : opNN p = nn := by decide) : packXNN f (opX op) nn = op :=
  packXNN_of_family_low ((opFamily_of_selects_low_byte h).trans hf) ((opNN_of_selects_low_byte h).trans hnn)

end

/-- A word that a row selects is the encoding of an instruction of that row, whose operands are the word's fields. -/
theorem exists_encode_of_selects (op : Word) : ∀ r ∈ opcodeTable, r.selects op = true → ∃ i, encode i = op := by
  simp only [opcodeTable, List.cons_append, List.nil_append, List.forall_mem_cons]
  exact ⟨fun h => ⟨.cls, eq_of_selects_all h⟩, fun h => ⟨.ret, eq_of_selects_all h⟩,
    fun h => ⟨.jp (opNNN op), packNNN_of_selects h⟩,
    fun h => ⟨.call (opNNN op), packNNN_of_selects h⟩,
    fun h => ⟨.seImm (opX op) (opNN op), packXNN_of_selects h⟩,
    fun h => ⟨.sneImm (opX op) (opNN op), packXNN_of_selects h⟩,
    fun h => ⟨.seReg (opX op) (opY op), packXYN_of_selects_low h⟩,
    fun h => ⟨.ldImm (opX op) (opNN op), packXNN_of_selects h⟩,
    fun h => ⟨.addImm (opX op) (opNN op), packXNN_of_selects h⟩,
    fun h => ⟨.ldReg (opX op) (opY op), packXYN_of_selects_low h⟩,
    fun h => ⟨.orReg (opX op) (opY op), packXYN_of_selects_low h⟩,
    fun h => ⟨.andReg (opX op) (opY op), packXYN_of_selects_low h⟩,
    fun h => ⟨.xorReg (opX op) (opY op), packXYN_of_selects_low h⟩,
    fun h => ⟨.addReg (opX op) (opY op), packXYN_of_selects_low h⟩,
    fun h => ⟨.subReg (opX op) (opY op), packXYN_of_selects_low h⟩,
    fun h => ⟨.shr (opX op) (opY op), packXYN_of_selects_low h⟩,
    fun h => ⟨.subnReg (opX op) (opY op), packXYN_of_selects_low h⟩,
    fun h => ⟨.shl (opX op) (opY op), packXYN_of_selects_low h⟩,
    fun h => ⟨.sneReg (opX op) (opY op), packXYN_of_selects_low h⟩,
    fun h => ⟨.ldI (opNNN op), packNNN_of_selects h⟩,
    fun h => ⟨.jpV0 (opNNN op), packNNN_of_selects h⟩,
    fun h => ⟨.rnd (opX op) (opNN op), packXNN_of_selects h⟩,
    fun h => ⟨.drw (opX op) (opY op) (opN op), packXYN_of_selects h⟩,
    fun h => ⟨.skp (opX op), packXNN_of_selects_low h⟩,
    fun h => ⟨.sknp (opX op), packXNN_of_selects_low h⟩,
    fun h => ⟨.ldFromDt (opX op), packXNN_of_selects_low h⟩,
    fun h => ⟨.ldKey (opX op), packXNN_of_selects_low h⟩,
    fun h => ⟨.ldDt (opX op), packXNN_of_selects_low h⟩,
    fun h => ⟨.ldSt (opX op), packXNN_of_selects_low h⟩,
    fun h => ⟨.addI (opX op), packXNN_of_selects_low h⟩,
    fun h => ⟨.ldFont (opX op), packXNN_of_selects_low h⟩,
    fun h => ⟨.ldBcd (opX op), packXNN_of_selects_low h⟩,
    fun h => ⟨.stRegs (opX op), packXNN_of_selects_low h⟩,
    fun h => ⟨.ldRegs (opX op), packXNN_of_selects_low h⟩,
    fun _ h => absurd h List.not_mem_nil⟩

theorem wellFormed_iff (op : Word) : op.wellFormed = true ↔ ∃ r ∈ opcodeTable, r.selects op = true :=
  List.any_eq_true

/-- A word that decodes to an instruction is selected by the row of that instruction. -/
theorem selected_of_decodeWord {op : Word} {i : Instr} (h : decodeWord op = some i) :
    ∃ r ∈ opcodeTable, r.mnemonic = i.mnemonic ∧ r.selects op = true :=
  encodeInvertsDecode op i h ▸ encode_selected i

/-- Settles O3: what decodes is the encoding of what it decodes to, which that instruction's row selects; what a row
selects is an encoding, and so decodes. -/
theorem decoderFollowsTable : Obligations.DecoderFollowsTable := by
  refine ⟨fun op => ⟨fun h => ?selected, fun h => ?decodes⟩, fun _ _ => selected_of_decodeWord⟩
  case selected =>
    obtain ⟨i, hi⟩ := Option.isSome_iff_exists.mp h
    obtain ⟨r, hr, -, hsel⟩ := selected_of_decodeWord hi
    exact (wellFormed_iff op).mpr ⟨r, hr, hsel⟩
  case decodes =>
    obtain ⟨r, hr, hsel⟩ := (wellFormed_iff op).mp h
    obtain ⟨i, rfl⟩ := exists_encode_of_selects op r hr hsel
    rw [decodeWord_encode]
    rfl

/-- Two rows select a common word only if their patterns agree on the bits both masks keep. -/
theorem patterns_agree_of_selects {r r' : OpcodeRow} {op : Word} (h : r.selects op = true) (h' : r'.selects op = true) :
    r.pattern &&& r'.mask = r'.pattern &&& r.mask := by
  rw [← eq_of_beq h, ← eq_of_beq h', BitVec.and_assoc, BitVec.and_assoc, BitVec.and_comm r.mask]

/-- Any two rows differ on a bit both masks keep (R85). -/
theorem patterns_disagree : opcodeTable.Pairwise fun r r' => r.pattern &&& r'.mask ≠ r'.pattern &&& r.mask := by
  decide

/-- Settles O4: a word that two rows select would make their patterns agree where both masks look. -/
theorem tableRowsDisjoint : Obligations.TableRowsDisjoint :=
  patterns_disagree.imp fun hne _ hboth => hne (patterns_agree_of_selects hboth.1 hboth.2)

/-- Settles O5: the decoder computes each of the twelve answers. -/
theorem specWordsDecode : Obligations.SpecWordsDecode := by
  unfold Obligations.SpecWordsDecode
  decide

end Sys2Proof

/-! Proofs of the statements on the step (`00_scope.md` R10, `60_exceptions.md`): the halted core, the faults of fetch
and decode, the instruction that is run, and the finished state. -/

namespace Sys2Proof.Machine

/-! ### The step by its fetch -/

theorem step_of_halted {s : State} (h : s.halted = true) : step s = .next s := by
  simp [step, State.fetch_of_halted h, haltedStep]

/-- A step whose fetch or decode faults is fault entry. -/
theorem step_faultTaken {s : State} {f : Fault} (h : s.fetch = .fault f) :
    ∃ t, step s = .next t ∧ FaultTaken s t f.code f.info :=
  ⟨s.raise f, step_of_fault h, s.raise_faultTaken f⟩

theorem State.fetch_of_undecodable {s : State} (h : s.halted = false) (hp : s.pc.toNat < 4095)
    (hd : decodeWord (s.mem.readWord s.pc.toNat) = none) :
    s.fetch = .fault (.unknownOpcode (s.mem.readWord s.pc.toNat)) := by
  rw [State.fetch_of_inRange h hp, hd]

/-- The decoder reads an instruction from two bytes exactly when their word decodes to it (R55, R80). -/
theorem decodeWord_of_decode_pair {hi lo : Byte} {i : Instr} {rest : List Byte}
    (h : decode [hi, lo] = .instr i rest) : decodeWord (hi ++ lo) = some i := by
  cases hword : decodeWord (wordOfBytes hi lo) with
  | none => simp [decode, hword] at h
  | some j =>
    obtain ⟨rfl, -⟩ : j = i ∧ [] = rest := by simpa [decode, hword] using h
    exact hword

/-! ### The statements -/

/-- Settles O9: the fetch of a halted core answers that it is halted. -/
theorem haltedStepChangesNothing : Obligations.HaltedStepChangesNothing := fun _ h => step_of_halted h

/-- Settles O6: the two bytes at `pc` are the word the fetch decodes. -/
theorem stepRunsDecodedInstruction : Obligations.StepRunsDecodedInstruction := fun _ _ _ hrun hpc hdec =>
  step_of_run (State.fetch_eq_run.mpr ⟨hrun, by omega, decodeWord_of_decode_pair hdec⟩)

/-- Settles O7: the fetch answers the fault of the word. -/
theorem unknownOpcodeFaults : Obligations.UnknownOpcodeFaults := fun _ hrun hpc hdec =>
  step_faultTaken (State.fetch_of_undecodable hrun (by omega) hdec)

/-- Settles O8: the fetch answers the fault of the lowest bad address. -/
theorem fetchOutOfRangeFaults : Obligations.FetchOutOfRangeFaults := fun _ hrun hpc =>
  step_faultTaken (State.fetch_of_outOfRange hrun hpc)

/-- Settles O60: the step runs the jump, which sets `pc` to the value it has. -/
theorem selfJumpIsFixedPoint : Obligations.SelfJumpIsFixedPoint := by
  rintro s ⟨nnn, hfetch, htarget⟩
  rw [step_of_run hfetch, exec_jp, htarget]
  rfl

/-! ### The placed word -/

/-- A word stored high byte first is read back (R54, R55). -/
theorem Memory.readWord_writeBlock_bytesOfWord (m : Memory) (a : Nat) (w : Word) :
    (m.writeBlock a (bytesOfWord w)).readWord a = w := by
  have hhi : (m.writeBlock a (bytesOfWord w)).read a = w.extractLsb' 8 8 :=
    m.read_writeBlock_inside a (bs := bytesOfWord w) (k := 0) (Nat.zero_lt_two)
  have hlo : (m.writeBlock a (bytesOfWord w)).read (a + 1) = w.extractLsb' 0 8 :=
    m.read_writeBlock_inside a (bs := bytesOfWord w) (k := 1) (Nat.one_lt_two)
  rw [Memory.readWord, hhi, hlo]
  exact wordOfBytes_bytesOfWord w

/-- The state made ready is not halted, and two bytes can be read at its `pc`. -/
theorem State.readyToFetch_ready (s : State) :
    s.readyToFetch.halted = false ∧ s.readyToFetch.pc.toNat + 2 ≤ 4096 := by
  have hawake :
      (if s.halted then { s with halted := false, cause := 0, fpc := 0, finfo := 0 } else s).halted = false := by
    split
    · rfl
    · simpa using ‹¬ s.halted = true›
  unfold State.readyToFetch
  dsimp only
  generalize (if s.halted then { s with halted := false, cause := 0, fpc := 0, finfo := 0 } else s) = t at hawake ⊢
  split
  case isTrue hpc => exact ⟨hawake, hpc⟩
  case isFalse => exact ⟨hawake, by rw [State.setPc_pc]; decide⟩

theorem decodeWord_of_decodeTableWord {nbits w : Nat} {i : Instr} (h : decodeTableWord nbits w = some i) :
    decodeWord (tableWord nbits w) = some i := by
  have hbytes := decode_bytesOfWord (tableWord nbits w) []
  rw [List.append_nil] at hbytes
  rw [decodeTableWord, hbytes] at h
  cases hword : decodeWord (tableWord nbits w) <;> simp_all

/-- Settles O11: the state made ready fetches, and what it reads at `pc` is the word placed there. -/
theorem placedWordRuns : Obligations.PlacedWordRuns := by
  intro s w i hdec
  obtain ⟨hrun, hpc⟩ := s.readyToFetch_ready
  refine step_of_run (State.fetch_eq_run.mpr ⟨hrun, ?inRange, ?word⟩)
  case inRange => exact show s.readyToFetch.pc.toNat < 4095 by omega
  case word =>
    rw [State.withFetchWord, State.placeAtPc_pc, State.placeAtPc_mem, Memory.readWord_writeBlock_bytesOfWord]
    exact decodeWord_of_decodeTableWord hdec

end Sys2Proof.Machine

/-! What each operation and each fault changes, in the words of the frames: the layer the statements on single
instructions are read off from. -/

namespace Sys2Proof.Machine

/-! ### Frames, weakened -/

/-- A move changes no more than any longer list of what it may change. -/
theorem Frame.mono {s t : State} {regs regs' : List RegId} {parts parts' : List Part} {bytes : Nat × Nat}
    (h : Frame s t regs parts bytes) (hregs : regs ⊆ regs') (hparts : parts ⊆ parts') :
    Frame s t regs' parts' bytes where
  regs_same x hx := h.regs_same x (mt (@hregs x) hx)
  parts_same p hp := h.parts_same p (mt (@hparts p) hp)
  mem_same := h.mem_same

/-- A move that writes no memory keeps the bytes outside any range. -/
theorem Frame.bytes {s t : State} {regs : List RegId} {parts : List Part} (h : Frame s t regs parts)
    (bytes : Nat × Nat) : Frame s t regs parts bytes where
  regs_same := h.regs_same
  parts_same := h.parts_same
  mem_same a _ := h.mem_same a fun hin => absurd hin.2 (Nat.not_lt_zero a)

/-- The default move of `pc` adds `pc` to what an instruction changes, its bytes included (R26). -/
theorem Frame.advance_of {s t : State} {regs : List RegId} {parts : List Part} {bytes : Nat × Nat}
    (h : Frame s t regs parts bytes) : Frame s t.advance regs (parts ++ [.pc]) bytes := by
  simpa [State.advance] using h.trans ((t.setPc_frame (t.pc + 2)).bytes bytes)

/-! ### The frames of the operations -/

theorem State.setDt_frame (s : State) (b : Byte) : Frame s (s.setDt b) [] [.delayTimer] :=
  Frame.of_part rfl rfl fun q hq => by cases q <;> simp_all [Part.Same]

theorem State.setSt_frame (s : State) (b : Byte) : Frame s (s.setSt b) [] [.soundTimer] :=
  Frame.of_part rfl rfl fun q hq => by cases q <;> simp_all [Part.Same]

/-- Drawing a free value, a byte or a key, changes the count of draws only (R34, R192). -/
theorem State.draws_frame (s : State) (n : Nat) : Frame s { s with draws := n } [] [.draws] :=
  Frame.of_part rfl rfl fun q hq => by cases q <;> simp_all [Part.Same]

theorem State.displayDraw_frame (s : State) (x y : Byte) (bs : List Byte) :
    Frame s (s.displayDraw x y bs).1 [] [.display] :=
  Frame.of_part rfl rfl fun q hq => by cases q <;> simp_all [Part.Same]

/-- Moving the stack pointer, and writing entries, changes the call stack only (R27). -/
theorem State.stack_frame (s : State) (entries : Vector Word 16) (n : Fin 17) :
    Frame s { s with stack := entries, sp := n } [] [.stack] :=
  Frame.of_part rfl rfl fun q hq => by cases q <;> simp_all [Part.Same]

/-- A store at I changes the bytes it stores only. -/
theorem State.storeAtI_frame (s : State) (bs : List Byte) :
    Frame s (s.storeAtI bs) [] [] (s.i.toNat, bs.length) :=
  s.writeBlock_frame s.i.toNat bs

theorem State.bumpI_frame (s : State) (n : Nat) : Frame s (s.bumpI n) [] [.index] :=
  s.setI_frame _

/-- Loading V0, ..., VX changes those registers only (R155). -/
theorem State.setRegs_frame (s : State) (x : RegId) {bs : List Byte} (hlen : bs.length = x.toNat + 1) :
    Frame s (s.setRegs 0 bs) (regsUpTo x) [] where
  regs_same k hk := by
    have hout : ¬ (0 ≤ k.toNat ∧ k.toNat < 0 + bs.length) := by rw [mem_regsUpTo] at hk; omega
    rw [State.reg_setRegs s 0 bs k (by omega), if_neg hout]
  parts_same p _ := by
    obtain ⟨v, hv⟩ := s.setRegs_eq 0 bs
    rw [hv]
    cases p <;> simp [Part.Same]
  mem_same _ _ := by
    obtain ⟨v, hv⟩ := s.setRegs_eq 0 bs
    rw [hv]

/-! ### A fault, by its code and information -/

/-- A meaning that raises a fault is fault entry with the code and the information of that fault (R220). -/
theorem faultTaken_of_raise {o : Host.Outcome State Fault Refusal} {s : State} {f : Fault} {code : Fin 6} {info : Word}
    (ho : o = .next (s.raise f)) (hcode : f.code = code) (hinfo : f.info = info) :
    ∃ t, o = .next t ∧ FaultTaken s t code info :=
  ⟨s.raise f, ho, hcode ▸ hinfo ▸ s.raise_faultTaken f⟩

end Sys2Proof.Machine

/-! Proofs of the statements on control transfer (`40_flow.md`): the call, the return and the indexed jump. -/

namespace Sys2Proof.Machine

theorem toNat_zextByte (b : Byte) : (zextByte b).toNat = b.toNat :=
  BitVec.toNat_setWidth_of_le (by decide)

/-- The target of `BNNN` as a number: two addends that cannot overflow 16 bits (R108, D27). -/
theorem toNat_jpV0_target (b : Byte) (nnn : Addr12) :
    (zextByte b + zextNNN nnn).toNat = b.toNat + nnn.toNat := by
  rw [BitVec.toNat_add, toNat_zextByte, toNat_zextNNN]
  omega

theorem exec_jpV0 (nnn : Addr12) (s : State) :
    exec (.jpV0 nnn) s = .next (s.setPc (zextByte (s.reg 0) + zextNNN nnn)) := rfl

/-- Settles O17: the target is the sum of V0 and NNN, each zero-extended. -/
theorem jumpV0AddsOffset : Obligations.JumpV0AddsOffset := fun nnn s =>
  ⟨_, exec_jpV0 nnn s, toNat_jpV0_target (s.reg 0) nnn, s.setPc_frame _⟩

/-- A move of the call stack and then of `pc` changes those two parts only. -/
theorem State.stack_setPc_frame (s : State) (entries : Vector Word 16) (n : Fin 17) (w : Word) :
    Frame s (State.setPc { s with stack := entries, sp := n } w) [] [.pc, .stack] :=
  ((s.stack_frame entries n).trans (State.setPc_frame _ w)).mono (by simp) (by simp)

/-- Settles O18: the call writes the entry above the live ones, counts it and jumps. -/
theorem callPushesReturnAddress : Obligations.CallPushesReturnAddress := by
  intro nnn s hfree
  refine ⟨_, execCall_ok nnn hfree, rfl, ?top, ?others, toNat_zextNNN nnn, s.stack_setPc_frame _ _ _⟩
  case top => exact Vector.getElem_set_self hfree
  case others => exact fun j hj => Vector.getElem_set_ne hfree j.isLt hj.symm

/-- Settles O19: with no free entry the call raises the overflow, which reports the 16 entries. -/
theorem callOverflowFaults : Obligations.CallOverflowFaults := fun nnn _ hfull =>
  faultTaken_of_raise (execCall_full nnn hfull) rfl (congrArg (BitVec.ofNat 16) hfull)

/-- Settles O20: the return reads the topmost live entry, or raises the underflow, which reports no entry. -/
theorem returnPopsEntry : Obligations.ReturnPopsEntry :=
  ⟨fun s hlive => ⟨_, execRet_ok hlive, rfl, rfl, rfl, s.stack_setPc_frame s.stack _ _⟩,
   fun _ hempty => faultTaken_of_raise (execRet_empty hempty) rfl (congrArg (BitVec.ofNat 16) hempty)⟩

/-- Settles O21: the entry the return reads is the one the call wrote, `pc + 2`. -/
theorem callThenReturnRoundTrip : Obligations.CallThenReturnRoundTrip := by
  intro nnn s hfree
  obtain ⟨t, hcall, hsp, htop, -⟩ := callPushesReturnAddress nnn s hfree
  refine ⟨t, hcall, fun t' hstack hsp' => ?_⟩
  have hlive : t'.sp.val = s.sp.val + 1 := by rw [hsp', hsp]
  obtain ⟨u, hret, husp, hupc, -⟩ := returnPopsEntry.1 t' (by omega)
  refine ⟨u, hret, ?pc, Fin.ext (by omega)⟩
  case pc =>
    rw [hupc, ← htop]
    simp only [hstack, hlive, Nat.add_sub_cancel]

end Sys2Proof.Machine

/-! Proofs of the statements on register loads, logic, subtraction, shifts and the random byte (`41_alu.md`). -/

namespace Sys2Proof.Machine

/-! ### The flags as numbers (R22) -/

theorem noBorrowFlag_eq (a b : Byte) : noBorrowFlag a b = if a.toNat ≥ b.toNat then 1 else 0 := by
  simp [noBorrowFlag, flagByte]

/-- Bit 0, which a right shift loses, is the remainder by 2 (R128). -/
theorem toNat_shrFlag (a : Byte) : (shrFlag a).toNat = a.toNat % 2 := by
  rw [shrFlag, flagByte, BitVec.getLsbD, Nat.testBit_zero]
  split <;> simp_all

/-- Bit 7, which a left shift loses, is the quotient by 128 (R130). -/
theorem toNat_shlFlag (a : Byte) : (shlFlag a).toNat = a.toNat / 128 := by
  have hbound : a.toNat / 128 < 2 := by omega
  rw [shlFlag, flagByte, BitVec.getLsbD, Nat.testBit_eq_decide_div_mod_eq]
  split <;> simp_all <;> omega

/-! ### The arithmetic as numbers (R132) -/

theorem toNat_sub_byte (a b : Byte) : (a - b).toNat = (a.toNat + 256 - b.toNat) % 256 := by
  rw [BitVec.toNat_sub]
  omega

theorem toNat_shr_one (a : Byte) : (a >>> 1).toNat = a.toNat / 2 := by
  rw [BitVec.toNat_ushiftRight, Nat.shiftRight_one]

theorem toNat_shl_one (a : Byte) : (a <<< 1).toNat = a.toNat * 2 % 256 := by
  rw [BitVec.toNat_shiftLeft, Nat.shiftLeft_eq]

/-! ### One equation per instruction -/

theorem exec_ldImm (x : RegId) (nn : Byte) (s : State) : exec (.ldImm x nn) s = .next (s.setReg x nn).advance := rfl

theorem exec_ldReg (x y : RegId) (s : State) : exec (.ldReg x y) s = .next (s.setReg x (s.reg y)).advance := rfl

theorem exec_orReg (x y : RegId) (s : State) :
    exec (.orReg x y) s = .next (s.setReg x (s.reg x ||| s.reg y)).advance := rfl

theorem exec_andReg (x y : RegId) (s : State) :
    exec (.andReg x y) s = .next (s.setReg x (s.reg x &&& s.reg y)).advance := rfl

theorem exec_xorReg (x y : RegId) (s : State) :
    exec (.xorReg x y) s = .next (s.setReg x (s.reg x ^^^ s.reg y)).advance := rfl

theorem exec_subReg (x y : RegId) (s : State) :
    exec (.subReg x y) s =
      .next (s.setResultFlag x (s.reg x - s.reg y) (noBorrowFlag (s.reg x) (s.reg y))).advance := rfl

theorem exec_shr (x y : RegId) (s : State) :
    exec (.shr x y) s = .next (s.setResultFlag x (s.reg x >>> 1) (shrFlag (s.reg x))).advance := rfl

theorem exec_subnReg (x y : RegId) (s : State) :
    exec (.subnReg x y) s =
      .next (s.setResultFlag x (s.reg y - s.reg x) (noBorrowFlag (s.reg y) (s.reg x))).advance := rfl

theorem exec_shl (x y : RegId) (s : State) :
    exec (.shl x y) s = .next (s.setResultFlag x (s.reg x <<< 1) (shlFlag (s.reg x))).advance := rfl

theorem exec_rnd (x : RegId) (nn : Byte) (s : State) :
    exec (.rnd x nn) s = .next (s.drawByte.2.setReg x (nn &&& s.drawByte.1)).advance := rfl

/-! ### The two shapes of a register instruction -/

/-- An instruction that writes one register and moves on completes with the value in it, and changes nothing else. -/
theorem exec_setReg_spec {i : Instr} {s : State} {x : RegId} {b : Byte} {P : Byte → Prop}
    (hexec : exec i s = .next (s.setReg x b).advance) (hP : P b) :
    ∃ t, exec i s = .next t ∧ P (t.reg x) ∧ t.pc = s.pc + 2 ∧ Frame s t [x] [.pc] :=
  ⟨_, hexec, by rwa [State.advance_reg, State.reg_setReg_self], rfl, (s.setReg_frame x b).advance⟩

/-- An instruction that writes a result and then a flag completes with the result in VX, unless X is F, and the flag in
VF, and changes nothing else (R23). -/
theorem exec_setResultFlag_spec {i : Instr} {s : State} {x : RegId} {r f : Byte} {P Q : Byte → Prop}
    (hexec : exec i s = .next (s.setResultFlag x r f).advance) (hP : P r) (hQ : Q f) :
    ∃ t, exec i s = .next t ∧ (x ≠ 0xF → P (t.reg x)) ∧ Q (t.reg 0xF) ∧ t.pc = s.pc + 2 ∧
      Frame s t [x, 0xF] [.pc] := by
  refine ⟨_, hexec, fun hx => ?result, ?flag, rfl, (s.setResultFlag_frame x r f).advance⟩
  case result => rwa [State.advance_reg, s.reg_setResultFlag_of_ne_vf r f hx]
  case flag => exact (s.reg_vf_setResultFlag x r f).symm ▸ hQ

/-! ### The statements -/

/-- Settles O22: each of the two writes VX only. -/
theorem loadAndCopyRegister : Obligations.LoadAndCopyRegister :=
  ⟨fun x nn s => exec_setReg_spec (P := (· = nn)) (exec_ldImm x nn s) rfl,
   fun x y s => exec_setReg_spec (P := (· = s.reg y)) (exec_ldReg x y s) rfl⟩

/-- Settles O24: the bits of the word operations are the operations on the bits. -/
theorem logicBitwise : Obligations.LogicBitwise := fun x y s =>
  ⟨exec_setReg_spec (P := fun b => ∀ k, b.getLsbD k = ((s.reg x).getLsbD k || (s.reg y).getLsbD k))
      (exec_orReg x y s) fun _ => BitVec.getLsbD_or,
   exec_setReg_spec (P := fun b => ∀ k, b.getLsbD k = ((s.reg x).getLsbD k && (s.reg y).getLsbD k))
      (exec_andReg x y s) fun _ => BitVec.getLsbD_and,
   exec_setReg_spec (P := fun b => ∀ k, b.getLsbD k = ((s.reg x).getLsbD k ^^ (s.reg y).getLsbD k))
      (exec_xorReg x y s) fun _ => BitVec.getLsbD_xor⟩

/-- Settles O26: the two subtractions are one, with the operands exchanged. -/
theorem subtractSetsNoBorrow : Obligations.SubtractSetsNoBorrow := fun x y s =>
  ⟨exec_setResultFlag_spec (P := fun b => b.toNat = ((s.reg x).toNat + 256 - (s.reg y).toNat) % 256)
      (Q := (· = if (s.reg x).toNat ≥ (s.reg y).toNat then 1 else 0))
      (exec_subReg x y s) (toNat_sub_byte _ _) (noBorrowFlag_eq _ _),
   exec_setResultFlag_spec (P := fun b => b.toNat = ((s.reg y).toNat + 256 - (s.reg x).toNat) % 256)
      (Q := (· = if (s.reg y).toNat ≥ (s.reg x).toNat then 1 else 0))
      (exec_subnReg x y s) (toNat_sub_byte _ _) (noBorrowFlag_eq _ _)⟩

/-- Settles O27: a shift by one halves or doubles the byte, and its flag is the bit the byte loses. -/
theorem shiftsByOne : Obligations.ShiftsByOne := fun x y s =>
  ⟨exec_setResultFlag_spec (P := fun b => b.toNat = (s.reg x).toNat / 2) (Q := fun b => b.toNat = (s.reg x).toNat % 2)
      (exec_shr x y s) (toNat_shr_one _) (toNat_shrFlag _),
   exec_setResultFlag_spec (P := fun b => b.toNat = (s.reg x).toNat * 2 % 256)
      (Q := fun b => b.toNat = (s.reg x).toNat / 128) (exec_shl x y s) (toNat_shl_one _) (toNat_shlFlag _)⟩

/-- A register write after a draw, and the move of `pc`, change that register, `pc` and the count of draws only. -/
theorem State.draws_setReg_advance_frame (s : State) (n : Nat) (x : RegId) (b : Byte) :
    Frame s (State.setReg { s with draws := n } x b).advance [x] [.pc, .draws] :=
  ((s.draws_frame n).trans (State.setReg_frame _ x b)).advance_of.mono (by simp) (by simp)

/-- Settles O28: the byte drawn is masked by NN, whatever it is. -/
theorem randomMasksFreeByte : Obligations.RandomMasksFreeByte := by
  intro x nn s
  have hvalue : (s.drawByte.2.setReg x (nn &&& s.drawByte.1)).advance.reg x = nn &&& Config.randomByte s.draws := by
    rw [State.advance_reg, State.reg_setReg_self, State.drawByte_fst]
  refine ⟨_, exec_rnd x nn s, hvalue, fun k hk => ?masked, rfl, rfl, s.draws_setReg_advance_frame _ _ _⟩
  case masked => rw [hvalue, BitVec.getLsbD_and, hk, Bool.false_and]

end Sys2Proof.Machine

/-! Proofs of the statements on the index register and memory (`42_index_memory.md`): index arithmetic, the decimal
digits, the store and the load of registers, and a store into the instruction stream. -/

namespace Sys2Proof.Machine

/-! ### Index arithmetic -/

theorem exec_addI (x : RegId) (s : State) : exec (.addI x) s = .next (s.setI (s.i + zextByte (s.reg x))).advance := rfl

theorem exec_ldFont (x : RegId) (s : State) :
    exec (.ldFont x) s = .next (s.setI (zextByte (s.reg x) * 5)).advance := rfl

/-- Five times a byte fits 16 bits (R152). -/
theorem toNat_zextByte_mul_five (b : Byte) : (zextByte b * 5).toNat = b.toNat * 5 := by
  rw [BitVec.toNat_mul, toNat_zextByte]
  exact Nat.mod_eq_of_lt (by have := b.isLt; simp; omega)

/-- Settles O30: I is the 16-bit sum, and the product, which does not wrap. -/
theorem indexArithmetic : Obligations.IndexArithmetic := by
  intro x s
  refine ⟨⟨_, exec_addI x s, ?sum, rfl, s.setI_advance_frame _⟩,
    ⟨_, exec_ldFont x s, toNat_zextByte_mul_five _, rfl, s.setI_advance_frame _⟩⟩
  case sum =>
    rw [State.advance_i, State.setI_i, BitVec.toNat_add, toNat_zextByte]

/-! ### Bytes at I -/

/-- The fault of a bad address at I is fault entry with cause 4 and the lowest bad address (R214). -/
theorem faultTaken_of_outOfRange {o : Host.Outcome State Fault Refusal} {s : State} {a : Word}
    (ho : o = .next (s.raise (.memoryOutOfRange a))) : ∃ t, o = .next t ∧ FaultTaken s t 4 a :=
  faultTaken_of_raise ho rfl rfl

/-- Moving I past at most 16 bytes below 4096 does not wrap. -/
theorem toNat_bumpI {w : Word} {x : RegId} (h : w.toNat + x.toNat < 4096) :
    (w + BitVec.ofNat 16 (regCount x)).toNat = w.toNat + x.toNat + 1 := by
  rw [BitVec.toNat_add, BitVec.toNat_ofNat, regCount]
  omega

/-- Settles O31: three bytes are written, each a digit of VX, when the check of the three addresses passes. -/
theorem bcdStoresDigits : Obligations.BcdStoresDigits := by
  intro x s
  refine ⟨fun hin => ?digits, fun hout => faultTaken_of_outOfRange (execLdBcd_out x (by omega))⟩
  case digits =>
    have hbyte : ∀ k (hk : k < 3),
        (s.mem.writeBlock s.i.toNat (bcdDigits (s.reg x))).read (s.i.toNat + k) = (bcdDigits (s.reg x))[k] :=
      fun k hk => s.mem.read_writeBlock_inside s.i.toNat (bs := bcdDigits (s.reg x)) hk
    refine ⟨_, execLdBcd_ok x (by omega), ?hundreds, ?tens, ?ones, rfl, (s.storeAtI_frame _).advance_of⟩
    case hundreds => exact (congrArg BitVec.toNat (hbyte 0 (by decide))).trans BitVec.toNat_udiv
    case tens =>
      refine (congrArg BitVec.toNat (hbyte 1 (by decide))).trans ?_
      exact BitVec.toNat_umod.trans (congrArg (· % 10) BitVec.toNat_udiv)
    case ones => exact (congrArg BitVec.toNat (hbyte 2 (by decide))).trans BitVec.toNat_umod

/-- Byte `k` of the block of V0, ..., VX stands at I + `k` once the block is stored (R154). -/
theorem State.read_storeAtI_regBlock (s : State) {x k : RegId} (hk : k.toNat ≤ x.toNat) :
    (s.storeAtI (s.regBlock 0 (regCount x))).mem.read (s.i.toNat + k.toNat) = s.reg k := by
  have hlt : k.toNat < regCount x := Nat.lt_succ_of_le hk
  have hlen : k.toNat < (s.regBlock 0 (regCount x)).length := by rwa [State.length_regBlock]
  rw [State.storeAtI_mem, Memory.read_writeBlock_inside _ _ hlen, ← List.getD_eq_getElem _ 0 hlen,
    State.getD_regBlock _ _ _ _ hlt, Nat.zero_add, BitVec.ofNat_toNat, BitVec.setWidth_eq]

/-- Storing V0, ..., VX changes their bytes at I, I and `pc` only (R154). -/
theorem State.storeRegs_frame (s : State) (x : RegId) :
    Frame s ((s.storeAtI (s.regBlock 0 (regCount x))).bumpI (regCount x)).advance [] [.index, .pc]
      (s.i.toNat, regCount x) := by
  have hstore := s.storeAtI_frame (s.regBlock 0 (regCount x))
  rw [State.length_regBlock] at hstore
  exact (hstore.trans ((State.bumpI_frame _ (regCount x)).bytes _)).advance_of

/-- Settles O32: the block of V0, ..., VX is written at I when the check of its addresses passes. -/
theorem storeRegistersSpills : Obligations.StoreRegistersSpills := by
  intro x s
  refine ⟨fun hin => ?store, fun hout => faultTaken_of_outOfRange (execStRegs_out x hout)⟩
  case store =>
    exact ⟨_, execStRegs_ok x hin, fun k hk => s.read_storeAtI_regBlock hk, toNat_bumpI hin, rfl, s.storeRegs_frame x⟩

theorem State.length_atI (s : State) (n : Nat) : (s.atI n).length = n :=
  s.mem.length_readBlock s.i.toNat n

/-- V`k` holds byte I + `k` once the block at I is loaded (R155). -/
theorem State.reg_setRegs_atI (s : State) {x k : RegId} (hk : k.toNat ≤ x.toNat) :
    (s.setRegs 0 (s.atI (regCount x))).reg k = s.mem.read (s.i.toNat + k.toNat) := by
  have hlt : k.toNat < regCount x := Nat.lt_succ_of_le hk
  have hlen := s.length_atI (regCount x)
  have hfit : 0 + (s.atI (regCount x)).length ≤ 16 := by rw [hlen, regCount]; omega
  rw [State.reg_setRegs s 0 _ k hfit, if_pos (by omega)]
  exact Memory.getD_readBlock _ _ _ _ hlt 0

/-- Loading registers moves neither I nor `pc` and writes no memory. -/
theorem State.setRegs_keeps (s : State) (k : Nat) (bs : List Byte) :
    (s.setRegs k bs).i = s.i ∧ (s.setRegs k bs).pc = s.pc ∧ (s.setRegs k bs).mem = s.mem := by
  obtain ⟨v, hv⟩ := s.setRegs_eq k bs
  rw [hv]
  exact ⟨rfl, rfl, rfl⟩

/-- Loading V0, ..., VX from I changes those registers, I and `pc` only (R155). -/
theorem State.loadRegs_frame (s : State) (x : RegId) :
    Frame s ((s.setRegs 0 (s.atI (regCount x))).bumpI (regCount x)).advance (regsUpTo x) [.index, .pc] :=
  ((s.setRegs_frame x (s.length_atI (regCount x))).trans (State.bumpI_frame _ (regCount x))).advance_of.mono
    (by simp) (by simp)

/-- Settles O33: the block at I is written to V0, ..., VX when the check of its addresses passes. -/
theorem loadRegistersFills : Obligations.LoadRegistersFills := by
  intro x s
  refine ⟨fun hin => ?load, fun hout => faultTaken_of_outOfRange (execLdRegs_out x hout)⟩
  case load =>
    obtain ⟨hi, hpc, -⟩ := s.setRegs_keeps 0 (s.atI (regCount x))
    refine ⟨_, execLdRegs_ok x hin, fun k hk => s.reg_setRegs_atI hk, ?index, ?pc, s.loadRegs_frame x⟩
    case index => rw [State.advance_i, State.bumpI_i, hi, toNat_bumpI hin]
    case pc => rw [State.advance_pc, State.bumpI_pc, hpc]

/-- Settles O34: the load reads back byte by byte what the store wrote, and both move I past the same bytes. -/
theorem spillThenFillRoundTrip : Obligations.SpillThenFillRoundTrip := by
  intro x s hin
  obtain ⟨t, hstore, hbytes, hti, -⟩ := (storeRegistersSpills x s).1 hin
  refine ⟨t, hstore, fun t' hmem hi => ?_⟩
  obtain ⟨u, hload, hregs, hui, -⟩ := (loadRegistersFills x t').1 (by rwa [hi])
  refine ⟨u, hload, fun k hk => ?back, BitVec.eq_of_toNat_eq ?index⟩
  case back => rw [hregs k hk, hmem, hi, hbytes k hk]
  case index => rw [hui, hti, hi]

/-- Settles O35: after the store `pc` is at the two bytes stored, which are those the next step decodes. -/
theorem storeIsSeenByNextFetch : Obligations.StoreIsSeenByNextFetch := by
  intro x s j hrun hx hi hin hdec
  have hbase : s.i.toNat = s.pc.toNat + 2 := by
    rw [hi, BitVec.toNat_add]
    exact Nat.mod_eq_of_lt (by simp; omega)
  obtain ⟨t, hstore, hbytes, -, hpc, hframe⟩ := (storeRegistersSpills x s).1 (by omega)
  have hat : t.pc.toNat = s.i.toNat := by rw [hpc, hi]
  have hbyte0 : t.mem.read t.pc.toNat = s.reg 0 := by
    rw [hat]; exact hbytes 0 (Nat.zero_le _)
  have hbyte1 : t.mem.read (t.pc.toNat + 1) = s.reg 1 := by
    rw [hat]; exact hbytes 1 hx
  have hstill : t.halted = false := (hframe.parts_same .record (by decide)).1.trans hrun
  exact ⟨t, hstore, stepRunsDecodedInstruction t j [] hstill (by omega) (by rw [hbyte0, hbyte1, hdec])⟩

end Sys2Proof.Machine

/-! Proofs of the statements on the sprite draw (`43_display.md`): `DXYN`. -/

namespace Sys2Proof.Machine

/-- The draw of the `n` rows at I is, pixel by pixel, an exclusive or with the sprite of the statements (R171, R230). -/
theorem State.drew_spriteOn (s : State) (x y : Byte) (n : Nibble) :
    (⟨s.grid, false, false⟩ : Canvas).Drew (s.canvas x y (s.atI n.toNat)) (s.spriteOn x y n.toNat) := by
  refine (s.drew_canvas x y (s.atI n.toNat) (by rw [State.length_atI]; omega)).congr fun r c => ?_
  rw [State.length_atI]
  refine exists₂_congr fun j k => and_congr_right fun hj => ?_
  rw [State.atI, Memory.getD_readBlock _ _ _ _ hj]

/-- A draw, its flag and the move of `pc` change VF, the display and `pc` only (R171). -/
theorem State.draw_frame (s : State) (x y : Byte) (bs : List Byte) (f : Byte) :
    Frame s ((s.displayDraw x y bs).1.setReg vf f).advance [vf] [.display, .pc] :=
  ((s.displayDraw_frame x y bs).trans (State.setReg_frame _ vf f)).advance_of

/-- Settles O37: what the canvas of the draw says of its pixels, its collision and its change. -/
theorem drawXorsSprite : Obligations.DrawXorsSprite := by
  intro x y n s hin
  obtain ⟨hpixel, hcollision, hchanged⟩ := s.drew_spriteOn (s.reg x) (s.reg y) n
  simp only [Bool.false_eq_true, false_or] at hcollision hchanged
  refine ⟨_, execDrw_ok x y n hin, hpixel, fun hhit => ?hit, fun hmiss => ?miss, ?dirty, rfl, s.draw_frame _ _ _ _⟩
  case hit =>
    exact (State.reg_setReg_self _ vf _).trans (congrArg flagByte (hcollision.mpr hhit))
  case miss =>
    exact (State.reg_setReg_self _ vf _).trans (congrArg flagByte (Bool.eq_false_iff.mpr (mt hcollision.mp hmiss)))
  case dirty =>
    rw [State.advance_dirty, State.setReg_dirty, State.displayDraw_dirty, Bool.or_eq_true, hchanged]

/-- Settles O38: with a row out of range the draw raises the fault of the lowest bad address. -/
theorem drawOutOfRangeFaults : Obligations.DrawOutOfRangeFaults := fun x y n _ hn hout =>
  faultTaken_of_outOfRange (execDrw_out x y n hn hout)

/-- The sprite depends on memory and I alone. -/
theorem State.spriteOn_congr {s t : State} (hmem : t.mem = s.mem) (hi : t.i = s.i) (x y : Byte) (n : Nat) :
    t.spriteOn x y n = s.spriteOn x y n := by
  funext r c
  simp only [State.spriteOn, hmem, hi]

/-- Settles O39: two draws invert the sprite's pixels twice; over a blank grid the first leaves exactly them set. -/
theorem drawTwiceRestoresGrid : Obligations.DrawTwiceRestoresGrid := by
  intro x y n s hin
  obtain ⟨t, hdraw, hpixel, -, hmiss, -⟩ := drawXorsSprite x y n s hin
  refine ⟨t, hdraw, fun hblank => ?first, fun t' hgrid hmem hi hx hy => ?second⟩
  case first =>
    exact hmiss fun ⟨r, c, _, hset⟩ => absurd hset (by simp [hblank])
  case second =>
    obtain ⟨u, hdraw', hpixel', hhit', hmiss', -⟩ := drawXorsSprite x y n t' (by rwa [hi])
    rw [State.spriteOn_congr hmem hi, hx, hy] at hpixel' hhit' hmiss'
    rw [hgrid] at hpixel' hhit' hmiss'
    refine ⟨u, hdraw', Grid.ext_pixel fun r c => ?restored, fun hblank => ⟨fun hflag => ?on, fun ⟨r, c, hon⟩ => ?flag⟩⟩
    case restored =>
      by_cases hon : s.spriteOn (s.reg x) (s.reg y) n.toNat r c
      · rw [(hpixel' r c).1 hon, (hpixel r c).1 hon, Bool.not_not]
      · rw [(hpixel' r c).2 hon, (hpixel r c).2 hon]
    case on =>
      by_contra hnone
      have hzero := hmiss' fun ⟨r, c, hon, _⟩ => hnone ⟨r, c, hon⟩
      rw [hzero] at hflag
      exact absurd hflag (by decide)
    case flag => exact hhit' ⟨r, c, hon, by rw [(hpixel r c).1 hon, hblank r c, Bool.not_false]⟩

end Sys2Proof.Machine

/-! Proofs of the statements on the keypad and the timers (`44_keypad_timers.md`). -/

namespace Sys2Proof.Machine

theorem exec_ldFromDt (x : RegId) (s : State) : exec (.ldFromDt x) s = .next (s.setReg x s.dt).advance := rfl

theorem exec_ldDt (x : RegId) (s : State) : exec (.ldDt x) s = .next (s.setDt (s.reg x)).advance := rfl

theorem exec_ldSt (x : RegId) (s : State) : exec (.ldSt x) s = .next (s.setSt (s.reg x)).advance := rfl

/-- The key a byte up to 15 selects is the one with its value. -/
theorem setWidth_eq_key {b : Byte} {k : KeyId} (h : b.toNat = k.toNat) : b.setWidth 4 = k :=
  BitVec.eq_of_toNat_eq (by rw [BitVec.toNat_setWidth, h, Nat.mod_eq_of_lt k.isLt])

theorem toNat_key_as_byte (k : KeyId) : (k.setWidth 8 : Byte).toNat = k.toNat :=
  BitVec.toNat_setWidth_of_le (by decide)

/-- Settles O40: both are skips, on the flag of the key and on its negation. -/
theorem skipOnKey : Obligations.SkipOnKey := by
  intro x k s hk
  have hindex : (s.reg x).toNat ≤ 15 := by omega
  have hskp : exec (.skp x) s = .next (s.skipIf (s.key k)) := setWidth_eq_key hk ▸ execSkp_ok x hindex
  have hsknp : exec (.sknp x) s = .next (s.skipIf (!s.key k)) := setWidth_eq_key hk ▸ execSknp_ok x hindex
  refine ⟨exec_skipIf_spec hskp Iff.rfl, ?released⟩
  case released =>
    have hspec := exec_skipIf_spec (P := ¬ s.key k = true) hsknp (by simp)
    rwa [ite_not] at hspec

/-- Settles O41: an index above 15 selects no key, and the fault reports it. -/
theorem keyIndexFaults : Obligations.KeyIndexFaults := fun x _ hout =>
  ⟨faultTaken_of_raise (execSkp_out x hout) rfl rfl, faultTaken_of_raise (execSknp_out x hout) rfl rfl⟩

/-- Settles O42: the pick is a pressed key, and there is one exactly when some key is pressed. -/
theorem waitForKey : Obligations.WaitForKey := by
  intro x s
  refine ⟨fun ⟨k, hk⟩ => ?pressed, execLdKey_none x⟩
  case pressed =>
    obtain ⟨p, hp, hexec⟩ := execLdKey_some x hk
    refine ⟨_, p, hexec, hp, ?index, rfl, rfl, s.draws_setReg_advance_frame _ _ _⟩
    case index => rw [State.advance_reg, State.reg_setReg_self, toNat_key_as_byte]

theorem State.setDt_advance_frame (s : State) (b : Byte) : Frame s (s.setDt b).advance [] [.pc, .delayTimer] :=
  (s.setDt_frame b).advance_of.mono (by simp) (by simp)

theorem State.setSt_advance_frame (s : State) (b : Byte) : Frame s (s.setSt b).advance [] [.pc, .soundTimer] :=
  (s.setSt_frame b).advance_of.mono (by simp) (by simp)

/-- Settles O43: each of the three is one move between a register and a timer. -/
theorem timerMoves : Obligations.TimerMoves := fun x s =>
  ⟨exec_setReg_spec (P := (· = s.dt)) (exec_ldFromDt x s) rfl,
   ⟨_, exec_ldDt x s, rfl, rfl, s.setDt_advance_frame _⟩,
   ⟨_, exec_ldSt x s, rfl, rfl, s.setSt_advance_frame _⟩⟩

end Sys2Proof.Machine

/-! Proofs of the statements on the host's events (`60_exceptions.md`, `70_reset_and_hazards.md`): `Tick`, the boot
phase and `Reset`. -/

namespace Sys2Proof.Machine

/-! ### `Tick` -/

theorem toNat_countDown (b : Byte) : (countDown b).toNat = b.toNat - 1 := by
  unfold countDown
  split
  case isTrue h => rw [h]; rfl
  case isFalse h => bv_omega

theorem State.tick_of_halted {s : State} (h : s.halted = true) : s.tick = s := if_pos h

theorem State.tick_of_running {s : State} (h : s.halted = false) :
    s.tick = (s.setDt (countDown s.dt)).setSt (countDown s.st) :=
  if_neg (Bool.not_eq_true _ ▸ h)

theorem State.tick_mem (s : State) : s.tick.mem = s.mem := by
  cases h : s.halted with
  | true => rw [State.tick_of_halted h]
  | false => rw [State.tick_of_running h]; rfl

/-- A `Tick`, halted or not, changes the timers only (R226). -/
theorem State.tick_frame (s : State) : Frame s s.tick [] [.delayTimer, .soundTimer] := by
  cases h : s.halted with
  | true => exact (State.tick_of_halted h).symm ▸ Frame.refl s _ _ _
  | false => exact (State.tick_of_running h).symm ▸ (s.setDt_frame _).trans (State.setSt_frame _ _)

theorem State.beepEdge_of_running {s : State} (h : s.halted = false) : s.beepEdge = true ↔ s.st.toNat = 1 := by
  rw [State.beepEdge, h, Bool.not_false, Bool.true_and, beq_iff_eq, ← BitVec.toNat_inj]
  rfl

theorem System.event_tick (y : System) :
    y.event .tick = some (⟨y.state.tick, .running⟩, .beep y.state.beepEdge) := rfl

/-- Settles O44: a running core counts both timers down, a halted one does nothing. -/
theorem tickCountsDown : Obligations.TickCountsDown := by
  intro y
  refine ⟨_, _, y.event_tick, fun hhalt => ⟨State.tick_of_halted hhalt, ?silent⟩,
    fun hrun => ⟨?delay, ?sound, State.beepEdge_of_running hrun, y.state.tick_frame⟩⟩
  case silent => rw [State.beepEdge, hhalt]; rfl
  case delay => rw [State.tick_of_running hrun]; exact toNat_countDown _
  case sound => rw [State.tick_of_running hrun]; exact toNat_countDown _

/-! ### The boot phase -/

theorem System.event_load_running {y : System} {rom : List Byte} (h : y.phase = .running) :
    y.event (.load rom) = none := by
  simp only [System.event, h]

/-- An accepted or refused `Load` came in the boot phase and leaves it open; its state is the old one, or the one with
the image in place (R252, R253). -/
theorem System.event_load_cases {y z : System} {rom : List Byte} {a : Answer} (h : y.event (.load rom) = some (z, a)) :
    z.phase = y.phase ∧ (z.state = y.state ∨ y.state.load rom = some z.state) := by
  cases hphase : y.phase with
  | running => simp [System.event_load_running hphase] at h
  | boot =>
    cases hload : y.state.load rom with
    | none =>
      rw [System.event_load_refused hphase hload] at h
      cases h
      exact ⟨hphase, .inl rfl⟩
    | some t =>
      rw [System.event_load_accepted hphase hload] at h
      cases h
      exact ⟨rfl, .inr rfl⟩

/-- A `Step` event that the host sees ends in the state of the step, with the boot phase over (R253). -/
theorem System.event_step_cases {y z : System} {a : Answer} (h : y.event .step = some (z, a)) :
    z.phase = .running ∧ step y.state = .next z.state := by
  cases hstep : step y.state with
  | next t => simp only [System.event, hstep] at h; cases h; exact ⟨rfl, rfl⟩
  | fault f => simp [System.event, hstep] at h
  | refused r => simp [System.event, hstep] at h

/-- Settles O48: each event says in its own branch which phase it leaves. -/
theorem loadOnlyInBootPhase : Obligations.LoadOnlyInBootPhase := by
  refine ⟨fun _ _ => System.event_load_running, fun y z e a h => ?_⟩
  cases e with
  | reset | tick | keySet | takeDirty => cases h; rfl
  | load => exact (System.event_load_cases h).1
  | step => exact (System.event_step_cases h).1

/-! ### `Reset` -/

/-- The `Reset` event leaves the state after reset but for the keys and the count of draws (R250, D20). -/
theorem State.resetEvent_frame (s : State) : Frame State.reset s.resetEvent [] [.keys, .draws] where
  regs_same _ _ := rfl
  parts_same p hp := by cases p <;> simp_all [Part.Same]
  mem_same _ _ := rfl

theorem System.event_reset (y : System) : y.event .reset = some (⟨y.state.resetEvent, .boot⟩, .silent) := rfl

/-- Settles O50: what the event keeps of the old state is the keys and the count of draws. -/
theorem resetEventRestores : Obligations.ResetEventRestores := fun y =>
  ⟨_, _, y.event_reset, rfl, rfl, fun _ => rfl, fun _ => rfl,
    fun p hkeys hdraws => y.state.resetEvent_frame.parts_same p (by simp [hkeys, hdraws])⟩

/-- Memory past the font's 80 bytes is 0 after reset (R37). -/
theorem resetByte_of_not_font {a : Nat} (h : 0x050 ≤ a) : resetByte a = 0 :=
  List.getD_eq_default _ _ h

/-- Settles O49: every field of the state after reset is the value R37 gives it. -/
theorem resetValues : Obligations.ResetValues :=
  ⟨fun x => Vector.getElem_replicate x.isLt, rfl, rfl, rfl, fun j => Vector.getElem_replicate j.isLt, rfl, rfl, rfl,
    rfl, rfl, rfl, Grid.pixel_blank, rfl, fun _ => resetByte_of_not_font⟩

end Sys2Proof.Machine

/-! What executing an instruction can do, said once: it raises the one fault whose condition holds, or it completes. The
rules of the whole machine are read off from this. -/

namespace Sys2Proof.Machine

/-! ### The two ways an instruction ends -/

/-- The fault an instruction raises when it executes, under the condition of that fault (R212 to R215). -/
inductive Raises (s : State) : Instr → Fault → Prop
  /-- A call with all 16 entries in use (R212). -/
  | call (nnn : Addr12) (h : s.sp.val = 16) : Raises s (.call nnn) (.stackOverflow s.sp)
  /-- A return with no entry in use (R213). -/
  | ret (h : s.sp.val = 0) : Raises s .ret (.stackUnderflow s.sp)
  /-- An access to bytes from I, one of them out of range (R214). -/
  | memory (i : Instr) (h0 : bytesAtI i ≠ 0) (h : 4096 < s.i.toNat + bytesAtI i) :
      Raises s i (.memoryOutOfRange (if 4096 ≤ s.i.toNat then s.i else 0x1000))
  /-- A key skip whose index is above 15 (R215). -/
  | skp (x : RegId) (h : 15 < (s.reg x).toNat) : Raises s (.skp x) (.keyIndexOutOfRange (s.reg x))
  /-- The other key skip, under the same condition (R215). -/
  | sknp (x : RegId) (h : 15 < (s.reg x).toNat) : Raises s (.sknp x) (.keyIndexOutOfRange (s.reg x))

/-- The parts of the state an instruction can change when it completes. -/
def changedParts : Instr → List Part
  | .cls | .drw _ _ _ => [.display, .pc]
  | .ret | .call _ => [.pc, .stack]
  | .ldI _ | .addI _ | .ldFont _ | .stRegs _ | .ldRegs _ => [.index, .pc]
  | .rnd _ _ | .ldKey _ => [.pc, .draws]
  | .ldDt _ => [.pc, .delayTimer]
  | .ldSt _ => [.pc, .soundTimer]
  | .jp _ | .jpV0 _ | .seImm _ _ | .sneImm _ _ | .seReg _ _ | .sneReg _ _ | .skp _ | .sknp _ | .ldImm _ _ | .addImm _ _
  | .ldReg _ _ | .orReg _ _ | .andReg _ _ | .xorReg _ _ | .addReg _ _ | .subReg _ _ | .shr _ _ | .subnReg _ _
  | .shl _ _ | .ldFromDt _ | .ldBcd _ => [.pc]

/-- The bytes an instruction stores at I when it completes (R153, R154). -/
def storedBytes (s : State) : Instr → List Byte
  | .ldBcd x => bcdDigits (s.reg x)
  | .stRegs x => s.regBlock 0 (regCount x)
  | _ => []

/-- Where an instruction can leave `pc` when it completes (R26). -/
def NextPc (s : State) (w : Word) : Instr → Prop
  | .ret => ∃ j : Fin 16, j.val < s.sp.val ∧ w = s.stack[j.val]
  | .jp nnn | .call nnn => w = zextNNN nnn
  | .jpV0 nnn => w = zextByte (s.reg 0) + zextNNN nnn
  | .seImm _ _ | .sneImm _ _ | .seReg _ _ | .sneReg _ _ | .skp _ | .sknp _ => w = s.pc + 4 ∨ w = s.pc + 2
  | .ldKey _ => w = s.pc ∨ w = s.pc + 2
  | _ => w = s.pc + 2

/-- What a completed instruction leaves: nothing changed but its destinations, its parts and the bytes it stores. -/
structure Completes (i : Instr) (s t : State) : Prop where
  regs_same : ∀ x, x ∉ destinations i → t.reg x = s.reg x
  parts_same : ∀ p, p ∉ changedParts i → p.Same s t
  mem : t.mem = s.mem.writeBlock s.i.toNat (storedBytes s i)
  pc : NextPc s t.pc i
  in_range : bytesAtI i = 0 ∨ s.i.toNat + bytesAtI i ≤ 4096

/-- The instruction ends in one of the two ways. -/
def Ends (i : Instr) (s : State) : Prop :=
  (∃ f, Raises s i f ∧ exec i s = .next (s.raise f)) ∨ ∃ t, Completes i s t ∧ exec i s = .next t

section
variable {i : Instr} {s t : State}

theorem Ends.raises {f : Fault} (h : Raises s i f) (hexec : exec i s = .next (s.raise f)) : Ends i s :=
  .inl ⟨f, h, hexec⟩

/-- An instruction that completes, from the frame of its own statement. -/
theorem Ends.completes {bytes : Nat × Nat} (hexec : exec i s = .next t)
    (hframe : Frame s t (destinations i) (changedParts i) bytes)
    (hmem : t.mem = s.mem.writeBlock s.i.toNat (storedBytes s i)) (hpc : NextPc s t.pc i)
    (hrange : bytesAtI i = 0 ∨ s.i.toNat + bytesAtI i ≤ 4096) : Ends i s :=
  .inr ⟨t, ⟨hframe.regs_same, hframe.parts_same, hmem, hpc, hrange⟩, hexec⟩

/-- A skip leaves `pc` 4 or 2 further (R100). -/
theorem State.skipIf_pc_cases (s : State) (c : Bool) : (s.skipIf c).pc = s.pc + 4 ∨ (s.skipIf c).pc = s.pc + 2 := by
  cases c
  · exact .inr rfl
  · exact .inl rfl

end

/-! ### The instructions with two ways to end -/

section
variable (s : State) (x y : RegId)

theorem ends_call (nnn : Addr12) : Ends (.call nnn) s := by
  rcases Nat.lt_or_ge s.sp.val 16 with hfree | hfull
  · exact .completes (execCall_ok nnn hfree) (s.stack_setPc_frame _ _ _) rfl rfl (.inl rfl)
  · have hfull : s.sp.val = 16 := by omega
    exact .raises (.call nnn hfull) (execCall_full nnn hfull)

theorem ends_ret : Ends .ret s := by
  rcases Nat.eq_zero_or_pos s.sp.val with hempty | hlive
  · exact .raises (.ret hempty) (execRet_empty hempty)
  · exact .completes (execRet_ok hlive) (s.stack_setPc_frame s.stack _ _) rfl
      ⟨⟨s.sp.val - 1, by omega⟩, Nat.sub_one_lt_of_lt hlive, rfl⟩ (.inl rfl)

theorem ends_skp : Ends (.skp x) s := by
  rcases Nat.lt_or_ge 15 (s.reg x).toNat with hout | hin
  · exact .raises (.skp x hout) (execSkp_out x hout)
  · exact .completes (execSkp_ok x hin) (s.skipIf_frame _) rfl (s.skipIf_pc_cases _) (.inl rfl)

theorem ends_sknp : Ends (.sknp x) s := by
  rcases Nat.lt_or_ge 15 (s.reg x).toNat with hout | hin
  · exact .raises (.sknp x hout) (execSknp_out x hout)
  · exact .completes (execSknp_ok x hin) (s.skipIf_frame _) rfl (s.skipIf_pc_cases _) (.inl rfl)

theorem ends_drw (n : Nibble) : Ends (.drw x y n) s := by
  by_cases hin : n.toNat = 0 ∨ s.i.toNat + n.toNat ≤ 4096
  · exact .completes (execDrw_ok x y n (hin.imp_left BitVec.eq_of_toNat_eq)) (s.draw_frame _ _ _ _) rfl rfl hin
  · obtain ⟨h0, hout⟩ := not_or.mp hin
    have hout : 4096 < s.i.toNat + n.toNat := Nat.lt_of_not_le hout
    exact .raises (.memory _ h0 hout) (execDrw_out x y n (mt (congrArg BitVec.toNat) h0) hout)

theorem ends_ldBcd : Ends (.ldBcd x) s := by
  rcases Nat.lt_or_ge 4096 (s.i.toNat + 3) with hout | hin
  · exact .raises (.memory _ (Nat.succ_ne_zero 2) hout) (execLdBcd_out x hout)
  · exact .completes (execLdBcd_ok x hin) (s.storeAtI_frame _).advance_of rfl rfl (.inr hin)

theorem ends_stRegs : Ends (.stRegs x) s := by
  rcases Nat.lt_or_ge (s.i.toNat + x.toNat) 4096 with hin | hout
  · exact .completes (execStRegs_ok x hin) (s.storeRegs_frame x) rfl rfl (.inr hin)
  · exact .raises (.memory _ (Nat.succ_ne_zero x.toNat) (Nat.lt_succ_of_le hout)) (execStRegs_out x hout)

theorem ends_ldRegs : Ends (.ldRegs x) s := by
  rcases Nat.lt_or_ge (s.i.toNat + x.toNat) 4096 with hin | hout
  · obtain ⟨-, hpc, hmem⟩ := s.setRegs_keeps 0 (s.atI (regCount x))
    exact .completes (execLdRegs_ok x hin) (s.loadRegs_frame x) hmem (congrArg (· + 2) hpc) (.inr hin)
  · exact .raises (.memory _ (Nat.succ_ne_zero x.toNat) (Nat.lt_succ_of_le hout)) (execLdRegs_out x hout)

theorem ends_ldKey : Ends (.ldKey x) s := by
  by_cases hpressed : ∃ k, s.key k = true
  · obtain ⟨k, hk⟩ := hpressed
    obtain ⟨p, -, hexec⟩ := execLdKey_some x hk
    exact .completes hexec (s.draws_setReg_advance_frame _ _ _) rfl (.inr rfl) (.inl rfl)
  · have hnone : ∀ k, s.key k = false := fun k => Bool.eq_false_iff.mpr fun hk => hpressed ⟨k, hk⟩
    exact .completes (execLdKey_none x hnone) (Frame.refl s _ _ (0, 0)) rfl (.inl rfl) (.inl rfl)

end

/-! ### Every instruction -/

/-- Every instruction raises its fault or completes; those that only complete do so by their own equation and frame. -/
theorem ends (i : Instr) (s : State) : Ends i s := by
  cases i with
  | call nnn => exact ends_call s nnn
  | ret => exact ends_ret s
  | skp x => exact ends_skp s x
  | sknp x => exact ends_sknp s x
  | drw x y n => exact ends_drw s x y n
  | ldBcd x => exact ends_ldBcd s x
  | stRegs x => exact ends_stRegs s x
  | ldRegs x => exact ends_ldRegs s x
  | ldKey x => exact ends_ldKey s x
  | cls => exact .completes (exec_cls s) s.displayClear_advance_frame rfl rfl (.inl rfl)
  | jp nnn => exact .completes (exec_jp nnn s) (s.setPc_frame _) rfl rfl (.inl rfl)
  | jpV0 nnn => exact .completes (exec_jpV0 nnn s) (s.setPc_frame _) rfl rfl (.inl rfl)
  | seImm x nn => exact .completes (exec_seImm x nn s) (s.skipIf_frame _) rfl (s.skipIf_pc_cases _) (.inl rfl)
  | sneImm x nn => exact .completes (exec_sneImm x nn s) (s.skipIf_frame _) rfl (s.skipIf_pc_cases _) (.inl rfl)
  | seReg x y => exact .completes (exec_seReg x y s) (s.skipIf_frame _) rfl (s.skipIf_pc_cases _) (.inl rfl)
  | sneReg x y => exact .completes (exec_sneReg x y s) (s.skipIf_frame _) rfl (s.skipIf_pc_cases _) (.inl rfl)
  | ldImm x nn => exact .completes (exec_ldImm x nn s) (s.setReg_frame x _).advance rfl rfl (.inl rfl)
  | addImm x nn => exact .completes (exec_addImm x nn s) (s.setReg_frame x _).advance rfl rfl (.inl rfl)
  | ldReg x y => exact .completes (exec_ldReg x y s) (s.setReg_frame x _).advance rfl rfl (.inl rfl)
  | orReg x y => exact .completes (exec_orReg x y s) (s.setReg_frame x _).advance rfl rfl (.inl rfl)
  | andReg x y => exact .completes (exec_andReg x y s) (s.setReg_frame x _).advance rfl rfl (.inl rfl)
  | xorReg x y => exact .completes (exec_xorReg x y s) (s.setReg_frame x _).advance rfl rfl (.inl rfl)
  | ldFromDt x => exact .completes (exec_ldFromDt x s) (s.setReg_frame x _).advance rfl rfl (.inl rfl)
  | addReg x y => exact .completes (exec_addReg x y s) (s.setResultFlag_frame x _ _).advance rfl rfl (.inl rfl)
  | subReg x y => exact .completes (exec_subReg x y s) (s.setResultFlag_frame x _ _).advance rfl rfl (.inl rfl)
  | shr x y => exact .completes (exec_shr x y s) (s.setResultFlag_frame x _ _).advance rfl rfl (.inl rfl)
  | subnReg x y => exact .completes (exec_subnReg x y s) (s.setResultFlag_frame x _ _).advance rfl rfl (.inl rfl)
  | shl x y => exact .completes (exec_shl x y s) (s.setResultFlag_frame x _ _).advance rfl rfl (.inl rfl)
  | rnd x nn => exact .completes (exec_rnd x nn s) (s.draws_setReg_advance_frame _ _ _) rfl rfl (.inl rfl)
  | ldI nnn => exact .completes (exec_ldI nnn s) (s.setI_advance_frame _) rfl rfl (.inl rfl)
  | addI x => exact .completes (exec_addI x s) (s.setI_advance_frame _) rfl rfl (.inl rfl)
  | ldFont x => exact .completes (exec_ldFont x s) (s.setI_advance_frame _) rfl rfl (.inl rfl)
  | ldDt x => exact .completes (exec_ldDt x s) (s.setDt_advance_frame _) rfl rfl (.inl rfl)
  | ldSt x => exact .completes (exec_ldSt x s) (s.setSt_advance_frame _) rfl rfl (.inl rfl)

/-- Whatever state an instruction answers, it is the one of its fault or one it completes in. -/
theorem exec_cases {i : Instr} {s t : State} (h : exec i s = .next t) :
    (∃ f, Raises s i f ∧ t = s.raise f) ∨ Completes i s t := by
  rcases ends i s with ⟨f, hf, hexec⟩ | ⟨u, hu, hexec⟩
  · exact .inl ⟨f, hf, Host.Outcome.next.inj (h.symm.trans hexec)⟩
  · exact .inr (Host.Outcome.next.inj (h.symm.trans hexec) ▸ hu)

theorem exec_next (i : Instr) (s : State) : ∃ t, exec i s = .next t := by
  rcases ends i s with ⟨f, -, hexec⟩ | ⟨t, -, hexec⟩
  · exact ⟨_, hexec⟩
  · exact ⟨t, hexec⟩

/-! ### What a completed instruction keeps -/

section
variable {i : Instr} {s t : State}

theorem keys_not_mem_changedParts (i : Instr) : .keys ∉ changedParts i := by
  cases i <;> simp [changedParts]

theorem record_not_mem_changedParts (i : Instr) : .record ∉ changedParts i := by
  cases i <;> simp [changedParts]

/-- An instruction that completes takes no fault. -/
theorem Completes.halted_eq (h : Completes i s t) : t.halted = s.halted :=
  (h.parts_same .record (record_not_mem_changedParts i)).1

theorem Completes.pc_of_not_control (h : Completes i s t) (hi : isControl i = false) : t.pc = s.pc + 2 := by
  have hpc := h.pc
  cases i
  case ret | jp | call | seImm | sneImm | seReg | sneReg | jpV0 | skp | sknp | ldKey => exact Bool.noConfusion hi
  all_goals exact hpc

/-- An instruction that raises a fault has the code of that fault (R219). -/
theorem Raises.faultCode_eq {f : Fault} (h : Raises s i f) : faultCode i = some f.code := by
  cases h with
  | call | ret | skp | sknp => rfl
  | memory i h0 =>
    cases i
    case drw | ldBcd | stRegs | ldRegs => rfl
    all_goals exact absurd rfl h0

end

end Sys2Proof.Machine

/-! Proofs of the statements on faults (`60_exceptions.md`) and of the rules of the whole machine (`10_state.md`): each
is read off from the two ways an instruction ends. -/

namespace Sys2Proof.Machine

/-! ### Faults -/

/-- Settles O10: a halted core, a fault of the fetch and every instruction answer a next state. -/
theorem everyStepAnswersNext : Obligations.EveryStepAnswersNext := by
  intro s
  cases hfetch : s.fetch with
  | halted => exact ⟨s, by simp only [step, hfetch, haltedStep]⟩
  | fault f => exact ⟨_, step_of_fault hfetch⟩
  | run i => exact step_of_run hfetch ▸ exec_next i s

/-- Settles O13: an instruction that halts the core raised its fault. -/
theorem eachInstructionRaisesOnlyItsFault : Obligations.EachInstructionRaisesOnlyItsFault := by
  intro i s t hrun hexec hhalt
  rcases exec_cases hexec with ⟨f, hf, rfl⟩ | hdone
  · exact hf.faultCode_eq
  · exact absurd (hdone.halted_eq.trans hrun) (by simp [hhalt])

/-- Settles O12: the fault is one of the fetch and decode, or the one the instruction raises. -/
theorem faultEntryChangesOnlyTheRecord : Obligations.FaultEntryChangesOnlyTheRecord := by
  intro s t hrun hstep hhalt
  rcases step_cases hstep with ⟨hhalted, -⟩ | ⟨f, hfetch, rfl⟩ | ⟨i, hfetch, hexec⟩
  case inl => exact absurd hhalted (by simp [hrun])
  case inr.inl =>
    refine ⟨f.code, f.info, s.raise_faultTaken f, ?_⟩
    obtain ⟨-, ⟨hpc, rfl⟩ | ⟨hpc, hdec, rfl⟩⟩ := State.fetch_eq_fault hfetch
    · exact .inr (.inr (.inr (.inl ⟨rfl, rfl, hpc⟩)))
    · exact .inl ⟨rfl, rfl, by omega, hdec⟩
  case inr.inr =>
    rcases exec_cases hexec with ⟨f, hf, rfl⟩ | hdone
    · refine ⟨f.code, f.info, s.raise_faultTaken f, ?_⟩
      cases hf with
      | call nnn h => exact .inr (.inl ⟨rfl, congrArg (BitVec.ofNat 16) h, h, nnn, hfetch⟩)
      | ret h => exact .inr (.inr (.inl ⟨rfl, congrArg (BitVec.ofNat 16) h, h, hfetch⟩))
      | memory i h0 h => exact .inr (.inr (.inr (.inr (.inl ⟨rfl, rfl, i, hfetch, h0, h⟩))))
      | skp x h => exact .inr (.inr (.inr (.inr (.inr ⟨rfl, x, rfl, h, .inl hfetch⟩))))
      | sknp x h => exact .inr (.inr (.inr (.inr (.inr ⟨rfl, x, rfl, h, .inr hfetch⟩))))
    · exact absurd (hdone.halted_eq.trans hrun) (by simp [hhalt])

/-! ### Rules of one instruction -/

/-- Settles O54: a fault writes no register, and a completed instruction only its destinations. -/
theorem onlyDestinationsChange : Obligations.OnlyDestinationsChange := by
  intro i s t hexec x hx
  rcases exec_cases hexec with ⟨f, -, rfl⟩ | hdone
  · exact s.raise_reg f x
  · exact hdone.regs_same x hx

/-- Settles O59: a fault leaves `pc`, and a completed instruction that is no control transfer moves it by 2. -/
theorem pcAfterInstruction : Obligations.PcAfterInstruction := by
  intro i s t hrun hexec
  rcases exec_cases hexec with ⟨f, -, rfl⟩ | hdone
  · exact ⟨fun _ => rfl, fun hawake => Bool.noConfusion hawake⟩
  · exact ⟨fun hhalt => absurd (hdone.halted_eq.trans hrun) (by simp [hhalt]), fun _ => hdone.pc_of_not_control⟩

/-! ### Rules of one step -/

/-- A step leaves registers, memory and every part but the record as they were, or it ran an instruction that
completed. -/
theorem step_unchanged_or_completes {s t : State} (h : step s = .next t) :
    (t.mem = s.mem ∧ ∀ p : Part, p ≠ .record → p.Same s t) ∨ ∃ i, s.fetch = .run i ∧ Completes i s t := by
  have hraise : ∀ f, (s.raise f).mem = s.mem ∧ ∀ p : Part, p ≠ .record → p.Same s (s.raise f) := fun f =>
    ⟨rfl, fun p hp => (s.raise_faultTaken f).frame.parts_same p (mt List.mem_singleton.mp hp)⟩
  rcases step_cases h with ⟨-, rfl⟩ | ⟨f, -, rfl⟩ | ⟨i, hfetch, hexec⟩
  · exact .inl ⟨rfl, fun p _ => (Frame.refl t [] [] (0, 0)).parts_same p List.not_mem_nil⟩
  · exact .inl (hraise f)
  · rcases exec_cases hexec with ⟨f, -, rfl⟩ | hdone
    · exact .inl (hraise f)
    · exact .inr ⟨i, hfetch, hdone⟩

/-- A part that a step changes, other than the record, is one the instruction it ran can change. -/
theorem step_part_same {s t : State} {p : Part} (h : step s = .next t) (hp : p ≠ .record) :
    p.Same s t ∨ ∃ i, s.fetch = .run i ∧ exec i s = .next t ∧ p ∈ changedParts i := by
  rcases step_unchanged_or_completes h with ⟨-, hsame⟩ | ⟨i, hfetch, hdone⟩
  · exact .inl (hsame p hp)
  · by_cases hmem : p ∈ changedParts i
    · exact .inr ⟨i, hfetch, step_of_run hfetch ▸ h, hmem⟩
    · exact .inl (hdone.parts_same p hmem)

theorem delayTimer_mem_changedParts {i : Instr} (h : .delayTimer ∈ changedParts i) : ∃ x, i = .ldDt x := by
  cases i <;> simp_all [changedParts]

theorem soundTimer_mem_changedParts {i : Instr} (h : .soundTimer ∈ changedParts i) : ∃ x, i = .ldSt x := by
  cases i <;> simp_all [changedParts]

theorem display_mem_changedParts {i : Instr} (h : .display ∈ changedParts i) : i = .cls ∨ ∃ x y n, i = .drw x y n := by
  cases i <;> simp_all [changedParts]

/-- Settles O55: each timer is a part that one instruction alone can change. -/
theorem stepNeverDecrementsTimers : Obligations.StepNeverDecrementsTimers := by
  refine fun s t hstep => ⟨?delay, ?sound⟩
  case delay =>
    refine (step_part_same (p := .delayTimer) hstep (by decide)).imp_right ?_
    rintro ⟨i, hfetch, hexec, hmem⟩
    obtain ⟨x, rfl⟩ := delayTimer_mem_changedParts hmem
    cases hexec
    exact ⟨x, hfetch, rfl⟩
  case sound =>
    refine (step_part_same (p := .soundTimer) hstep (by decide)).imp_right ?_
    rintro ⟨i, hfetch, hexec, hmem⟩
    obtain ⟨x, rfl⟩ := soundTimer_mem_changedParts hmem
    cases hexec
    exact ⟨x, hfetch, rfl⟩

/-- Settles O56: the key flags are a part that no instruction changes. -/
theorem stepNeverChangesKeys : Obligations.StepNeverChangesKeys := fun _ _ hstep =>
  (step_part_same (p := .keys) hstep (by decide)).resolve_right
    fun ⟨i, _, _, hmem⟩ => keys_not_mem_changedParts i hmem

/-- Settles O58: the display is a part that two instructions alone can change. -/
theorem onlyDisplayInstructionsDraw : Obligations.OnlyDisplayInstructionsDraw := by
  intro s t hstep
  refine (step_part_same (p := .display) hstep (by decide)).imp_right ?_
  rintro ⟨i, hfetch, -, hmem⟩
  rcases display_mem_changedParts hmem with rfl | ⟨x, y, n, rfl⟩
  · exact .inl hfetch
  · exact .inr ⟨x, y, n, hfetch⟩

theorem storedBytes_eq_nil_or (s : State) (i : Instr) : storedBytes s i = [] ∨ ∃ x, i = .ldBcd x ∨ i = .stRegs x := by
  cases i <;> simp [storedBytes]

/-- Settles O57: what a completed instruction writes is the bytes it stores, and only two instructions store any. -/
theorem onlyStoresWriteMemory : Obligations.OnlyStoresWriteMemory := by
  intro s t hstep
  rcases step_unchanged_or_completes hstep with ⟨hmem, -⟩ | ⟨i, hfetch, hdone⟩
  · exact .inl hmem
  · rcases storedBytes_eq_nil_or s i with hnone | ⟨x, rfl | rfl⟩
    · exact .inl (by rw [hdone.mem, hnone]; rfl)
    · exact .inr ⟨x, .inl hfetch⟩
    · exact .inr ⟨x, .inr hfetch⟩

end Sys2Proof.Machine

/-! Proofs of the statements on the invariant of the machine: the state after reset meets it, and every step and every
event of the host keeps it. -/

namespace Sys2Proof.Machine

/-! ### What keeps the invariant -/

/-- A move that touches neither `pc`, nor the stack, nor the record keeps the invariant, if it leaves memory
canonical. -/
theorem State.Inv.of_frame {s t : State} {regs : List RegId} {parts : List Part} {bytes : Nat × Nat} (h : s.Inv)
    (hframe : Frame s t regs parts bytes) (hmem : t.mem.wf)
    (hparts : .pc ∉ parts ∧ .stack ∉ parts ∧ .record ∉ parts) : t.Inv := by
  obtain ⟨hp, hs, hr⟩ := hparts
  have hpc : t.pc = s.pc := hframe.parts_same .pc hp
  obtain ⟨hstack, hsp⟩ : t.stack = s.stack ∧ t.sp = s.sp := hframe.parts_same .stack hs
  obtain ⟨hhalted, hcause, hfpc, hfinfo⟩ := hframe.parts_same .record hr
  refine ⟨hmem, hpc ▸ h.pc_le, by simpa only [hstack, hsp] using h.stack_le, ?record⟩
  case record => simpa only [State.recordOk, hhalted, hcause, hfpc, hfinfo, hpc] using h.record

/-- Taking a fault keeps the invariant: the record holds a cause and the address of the instruction (R220). -/
theorem State.Inv.raise {s : State} (h : s.Inv) (f : Fault) : (s.raise f).Inv where
  mem_wf := h.mem_wf
  pc_le := h.pc_le
  stack_le := h.stack_le
  record := ⟨fun hawake => Bool.noConfusion hawake, fun _ => ⟨f.code_ne_zero, rfl⟩⟩

/-! ### A completed instruction -/

theorem length_storedBytes_le (s : State) (i : Instr) : (storedBytes s i).length ≤ bytesAtI i := by
  cases i
  case ldBcd => exact Nat.le_refl 3
  case stRegs x => exact (s.length_regBlock 0 (regCount x)).le
  all_goals exact Nat.zero_le _

section
variable {i : Instr} {s t : State}

/-- The bytes a completed instruction stores are in range, so memory stays canonical. -/
theorem Completes.mem_wf (h : Completes i s t) (hwf : s.mem.wf) : t.mem.wf := by
  have hlen := length_storedBytes_le s i
  rw [h.mem]
  rcases h.in_range with h0 | hin
  · have hnil : storedBytes s i = [] := List.length_eq_zero_iff.mp (by omega)
    rw [hnil]
    exact hwf
  · exact Memory.writeBlock_wf hwf (Nat.le_trans (Nat.add_le_add_left hlen _) hin)

theorem toNat_pc_add {w : Word} (hw : w.toNat < 4095) (k : Nat) (hk : k ≤ 4) :
    (w + BitVec.ofNat 16 k).toNat = w.toNat + k := by
  rw [BitVec.toNat_add, BitVec.toNat_ofNat]
  omega

/-- `pc` ends at most 4 past an address a word was fetched from, at an entry of the stack, or at a target of at most
255 + 4095 (R26, D32). -/
theorem NextPc.le {w : Word} (hpc : s.pc.toNat < 4095)
    (hstack : ∀ j : Fin 16, j.val < s.sp.val → (s.stack[j.val]).toNat ≤ 4096) (h : NextPc s w i) : w.toNat ≤ 4350 := by
  have hnext : (s.pc + 2).toNat = s.pc.toNat + 2 := toNat_pc_add hpc 2 (by decide)
  have hskip : (s.pc + 4).toNat = s.pc.toNat + 4 := toNat_pc_add hpc 4 (by decide)
  cases i
  case ret =>
    obtain ⟨j, hj, rfl⟩ := h
    have := hstack j hj
    omega
  case jp nnn | call nnn =>
    rw [show w = zextNNN nnn from h, toNat_zextNNN]
    omega
  case jpV0 nnn =>
    rw [show w = zextByte (s.reg 0) + zextNNN nnn from h, toNat_jpV0_target]
    omega
  case seImm | sneImm | seReg | sneReg | skp | sknp =>
    rcases h with rfl | rfl <;> omega
  case ldKey =>
    rcases h with rfl | rfl <;> omega
  all_goals
    rw [show w = s.pc + 2 from h]
    omega

theorem stack_mem_changedParts (h : .stack ∈ changedParts i) : i = .ret ∨ ∃ nnn, i = .call nnn := by
  cases i <;> simp_all [changedParts]

/-- A completed instruction leaves the live entries at most 4096: a call adds the address after it, a return drops one,
and no other touches them (R26, R27). -/
theorem Completes.stack_le (h : Completes i s t) (hexec : exec i s = .next t) (hpc : s.pc.toNat < 4095)
    (hstack : ∀ j : Fin 16, j.val < s.sp.val → (s.stack[j.val]).toNat ≤ 4096) :
    ∀ j : Fin 16, j.val < t.sp.val → (t.stack[j.val]).toNat ≤ 4096 := by
  by_cases hmem : .stack ∈ changedParts i
  case neg =>
    obtain ⟨hentries, hsp⟩ : t.stack = s.stack ∧ t.sp = s.sp := h.parts_same .stack hmem
    simpa only [hentries, hsp] using hstack
  case pos =>
    rcases stack_mem_changedParts hmem with rfl | ⟨nnn, rfl⟩
    · obtain ⟨k, hk, -⟩ := h.pc
      obtain ⟨u, hret, hsp, -, hentries, -⟩ := returnPopsEntry.1 s (Nat.zero_lt_of_lt hk)
      obtain rfl := Host.Outcome.next.inj (hexec.symm.trans hret)
      intro j hj
      simpa only [hentries] using hstack j (by omega)
    · rcases Nat.lt_or_ge s.sp.val 16 with hfree | hfull
      · obtain ⟨u, hcall, hsp, htop, hothers, -⟩ := callPushesReturnAddress nnn s hfree
        obtain rfl := Host.Outcome.next.inj (hexec.symm.trans hcall)
        intro j hj
        by_cases hj' : j.val = s.sp.val
        · have hpushed : (s.pc + 2).toNat = s.pc.toNat + 2 := toNat_pc_add hpc 2 (by decide)
          simp only [hj', htop]
          omega
        · rw [hothers j hj']
          exact hstack j (by omega)
      · obtain rfl := Host.Outcome.next.inj (hexec.symm.trans (execCall_full nnn (by omega)))
        exact hstack

/-- A completed instruction leaves the record of a core that was not halted as it was: all zero (R33). -/
theorem Completes.recordOk (h : Completes i s t) (hrun : s.halted = false) (hrecord : s.recordOk) : t.recordOk := by
  obtain ⟨hhalted, hcause, hfpc, hfinfo⟩ := h.parts_same .record (record_not_mem_changedParts i)
  refine ⟨fun _ => ?zero, fun hhalt => absurd (hhalted.trans hrun) (by simp [hhalt])⟩
  case zero => rw [hcause, hfpc, hfinfo]; exact hrecord.1 hrun

end

/-! ### The statements -/

/-- Settles O52: a halted core stands still, a fault writes a consistent record, and a completed instruction keeps each
part of the invariant. -/
theorem stepKeepsInvariant : Obligations.StepKeepsInvariant := by
  intro s t hinv hstep
  rcases step_cases hstep with ⟨-, rfl⟩ | ⟨f, -, rfl⟩ | ⟨i, hfetch, hexec⟩
  · exact hinv
  · exact hinv.raise f
  · obtain ⟨hrun, hpc, -⟩ := State.fetch_eq_run.mp hfetch
    rcases exec_cases hexec with ⟨f, -, rfl⟩ | hdone
    · exact hinv.raise f
    · exact ⟨hdone.mem_wf hinv.mem_wf, hdone.pc.le hpc hinv.stack_le, hdone.stack_le hexec hpc hinv.stack_le,
        hdone.recordOk hrun hinv.record⟩

/-- Settles O51: memory lists nothing, no stack entry is live, and the record is all zero. -/
theorem resetMeetsInvariant : Obligations.ResetMeetsInvariant where
  mem_wf := Memory.wf_nil
  pc_le := by decide
  stack_le _ hlive := absurd hlive (Nat.not_lt_zero _)
  record := ⟨fun _ => ⟨rfl, rfl, rfl⟩, fun hhalt => Bool.noConfusion hhalt⟩

/-- An image that `Load` accepts stands below 4096, so memory stays canonical (R252). -/
theorem State.Inv.load {s t : State} {rom : List Byte} (h : s.Inv) (hload : s.load rom = some t) : t.Inv := by
  rcases Nat.lt_or_ge 3584 rom.length with hlarge | hfits
  · rw [s.load_of_too_large hlarge] at hload
    cases hload
  · rw [s.load_of_fits hfits] at hload
    cases hload
    refine h.of_frame (s.writeBlock_frame 0x200 rom) (Memory.writeBlock_wf h.mem_wf ?_) (by decide)
    rw [Config.memSize]
    omega

/-- Settles O53: a reset meets the invariant, a load writes below 4096, a step keeps the invariant, and the other events
touch no part that it speaks of. -/
theorem everyEventKeepsInvariant : Obligations.EveryEventKeepsInvariant := by
  intro y z e a hinv h
  cases e with
  | reset =>
    cases h
    exact resetMeetsInvariant.of_frame y.state.resetEvent_frame Memory.wf_nil (by decide)
  | load rom =>
    rcases (System.event_load_cases h).2 with hsame | hload
    · exact hsame ▸ hinv
    · exact hinv.load hload
  | step => exact stepKeepsInvariant y.state z.state hinv (System.event_step_cases h).2
  | tick =>
    cases h
    exact hinv.of_frame y.state.tick_frame (y.state.tick_mem.symm ▸ hinv.mem_wf) (by decide)
  | keySet k b =>
    cases h
    exact hinv.of_frame (y.state.keySet_frame k b) hinv.mem_wf (by decide)
  | takeDirty =>
    cases h
    exact hinv.of_frame y.state.takeDirty_frame hinv.mem_wf (by decide)

end Sys2Proof.Machine
